-- ==== Sys2Proof/Word.lean ====
section
/-! DEFINITION. The widths the block works on (spec/00_scope.md R9, R15: every value is unsigned, bit 0 is the
least significant bit). -/

namespace Sys2Proof

/-- One byte of the stream or of the payload buffer (R55). -/
abbrev Byte := BitVec 8

/-- The 16-bit width of the holding registers, the counters and the CSR port (R20, R35). -/
abbrev Half := BitVec 16

/-- The 24-bit sentinel window WIN (R22). -/
abbrev Window := BitVec 24

/-- The 4-bit CSR address (R12, R35). -/
abbrev CsrAddr := BitVec 4

/-- The 31-bit command word CW (R84). -/
abbrev CommandWord := BitVec 31

end Sys2Proof
end

