-- ==== Sys2Proof/Machine/Operands.lean ====
section
/-! DEFINITION. How operands are assembled from consecutive bytes and taken apart again (spec/30_encoding.md R83,
spec/20_memory.md R51, R52): the byte and bit-field helpers every other file uses. -/

namespace Sys2Proof.Machine

/-- Bits [15:8] of a 16-bit value. -/
def hiByte (v : Half) : Byte := v.extractLsb' 8 8

/-- Bits [7:0] of a 16-bit value. -/
def loByte (v : Half) : Byte := v.extractLsb' 0 8

/-- The 16-bit value with the two bytes, the first in bits [15:8] (R83). -/
def half (hi lo : Byte) : Half := hi ++ lo

/-- `REG[15:8] <- b` (R16): the low byte keeps its old value. -/
def setHi (r : Half) (b : Byte) : Half := half b (loByte r)

/-- `REG[7:0] <- b` (R16): the high byte keeps its old value. -/
def setLo (r : Half) (b : Byte) : Half := half (hiByte r) b

/-- `{WIN, b}`: the last four bytes consumed in Seeking (R122). -/
def candidate (win : Window) (b : Byte) : BitVec 32 := win ++ b

/-- `{WIN[15:0], b}`: the window after one more byte (R122). -/
def shiftWindow (win : Window) (b : Byte) : Window := win.extractLsb' 0 16 ++ b

/-- `WIN[15:0]`, the CSR WIN_LO (R35). -/
def winLo (win : Window) : Half := win.extractLsb' 0 16

/-- `{0x00, WIN[23:16]}`, the CSR WIN_HI (R35). -/
def winHi (win : Window) : Half := half 0 (win.extractLsb' 16 8)

end Sys2Proof.Machine
end

