-- ==== Sys2Proof/Machine/FrameModel.lean ====
section
/-! DEFINITION. The Frame Model (spec/40_frame_model.md): the frame value, validate, decodeFormat, the CRC-16 and
the reference encoder. Pure functions, no state. -/

namespace Sys2Proof.Machine

/-- SENTINEL (R8, R71). -/
def sentinel : BitVec 32 := 0xAA55AA55

/-- The four sentinel bytes in wire order (R71). -/
def sentinelBytes : List Byte := [0xAA, 0x55, 0xAA, 0x55]

/-- FIXED_REST: the fixed-region bytes after the sentinel (R8). -/
def fixedRest : Half := 8

/-- CRC_POLY (R7; a constant, assumption log 14). -/
def crcPoly : Half := 0x1021

/-- CRC_INIT (R7). -/
def crcInit : Half := 0xFFFF

/-- CRC_XOROUT (R7). -/
def crcXorout : Half := 0x0000

/-- One of the eight shifts of R103: bit 15 is tested, then dropped. -/
def crcShift (c : Half) : Half :=
  if c.msb then (c <<< 1) ^^^ crcPoly else c <<< 1

/-- `n` shifts of R103. -/
def crcShifts : Nat → Half → Half
  | 0, c => c
  | n + 1, c => crcShifts n (crcShift c)

/-- crc16_update (R103): the byte goes into the high half, then eight shifts. -/
def crc16Update (c : Half) (b : Byte) : Half := crcShifts 8 (c ^^^ half b 0)

/-- The running value of the CRC over a byte sequence (R104's loop). -/
def crcRun (c : Half) (bytes : List Byte) : Half := bytes.foldl crc16Update c

/-- crc16 of a byte sequence (R104). -/
def crc16 (bytes : List Byte) : Half := crcRun crcInit bytes ^^^ crcXorout

/-- The Frame value that FrameReady carries (R106). -/
structure Frame where
  header : BitVec 32
  size : Half
  crc : Half
  messageType : Half
  format : Half
  data : List Byte
  deriving DecidableEq, Repr

/-- The results of validate (R100). -/
inductive FrameValidity where
  | valid
  | sizeOutOfBounds
  | checksumMismatch
  deriving DecidableEq, Repr

/-- validate (R100): size first, then checksum; the header is a precondition, not a case. -/
def validate (maxSize : Half) (_rawHeader : BitVec 32) (size crc computedCrc : Half) : FrameValidity :=
  if maxSize < size then .sizeOutOfBounds
  else if crc ≠ computedCrc then .checksumMismatch
  else .valid

/-- What decodeFormat returns (R101). -/
structure FormatFields where
  cryptoType : BitVec 3
  compressType : BitVec 2
  ackRequired : Bool
  deriving DecidableEq, Repr

/-- decodeFormat (R101, bit positions R76): reserved bits are ignored, nothing is refused. -/
def decodeFormat (f : Half) : FormatFields :=
  { cryptoType := f.extractLsb' 0 3
    compressType := f.extractLsb' 4 2
    ackRequired := f.getLsbD 15 }

/-- The bytes the checksum covers: message_type, format and data in wire order (R73). -/
def coveredBytes (msgType format : Half) (data : List Byte) : List Byte :=
  hiByte msgType :: loByte msgType :: hiByte format :: loByte format :: data

/-- The 12 + size wire bytes of a frame with the fields given (R70; byte order R51). -/
def frameBytes (size crc msgType format : Half) (data : List Byte) : List Byte :=
  sentinelBytes ++ hiByte size :: loByte size :: loByte crc :: hiByte crc :: coveredBytes msgType format data

/-- encode (R108): the reference function that builds a correctly check-summed frame. -/
def encodeFrame (msgType format : Half) (data : List Byte) : List Byte :=
  frameBytes (BitVec.ofNat 16 data.length) (crc16 (coveredBytes msgType format data)) msgType format data

end Sys2Proof.Machine
end

