-- ==== Sys2Proof/Machine/Ports.lean ====
section
/-! DEFINITION. The block's ports: the input record of a cycle, the output record (spec/00_scope.md R12), the
command word the inputs are packed into (spec/30_encoding.md R84), the phase and event codes (R21, R87) and the event
value (spec/60_exceptions.md R171). -/

namespace Sys2Proof.Machine

/-- ST, the phase (R21). Code 3 is reserved and never stored, so the type has three constructors (U7). -/
inductive Phase where
  | seek
  | hdr
  | pay
  deriving DecidableEq, Repr

/-- The 2-bit code of a phase (R21). -/
def Phase.code : Phase → BitVec 2
  | .seek => 0
  | .hdr => 1
  | .pay => 2

/-- Which event (R170). -/
inductive EventKind where
  | frameReady
  | sizeOutOfBounds
  | checksumMismatch
  | desyncNoise
  deriving DecidableEq, Repr

/-- The 2-bit code ev_kind of an event (R87, R170). -/
def EventKind.code : EventKind → BitVec 2
  | .frameReady => 0
  | .sizeOutOfBounds => 1
  | .checksumMismatch => 2
  | .desyncNoise => 3

/-- The model-level value of an event (R171): a whole frame, or the reason alone. -/
inductive FrameEvent where
  | frameReady (f : Frame)
  | frameRejected (reason : EventKind)
  deriving DecidableEq, Repr

/-- The input record I of one cycle (R12). -/
structure InputRecord where
  rst : Bool
  inValid : Bool
  inData : Byte
  csrWe : Bool
  csrAddr : CsrAddr
  csrWdata : Half
  pbRaddr : Half
  deriving DecidableEq, Repr

/-- The output record O of one cycle (R12). -/
structure Output where
  inReady : Bool
  evValid : Bool
  evKind : BitVec 2
  evSize : Half
  evCrc : Half
  evMsgType : Half
  evFormat : Half
  evCrypto : BitVec 3
  evCompress : BitVec 2
  evAck : Bool
  csrRdata : Half
  pbRdata : Byte
  deriving DecidableEq, Repr

/-- The quiet cycle: no reset, no byte, no CSR write, both read addresses zero (R151). -/
def idleRecord : InputRecord :=
  { rst := false, inValid := false, inData := 0, csrWe := false, csrAddr := 0, csrWdata := 0, pbRaddr := 0 }

/-- The cycle that presents one byte and nothing else: a line `PUSH b` (R91). -/
def pushRecord (b : Byte) : InputRecord := { idleRecord with inValid := true, inData := b }

/-- A line `RDCSR a` of its own: it implies in_valid = 0 and csr_we = 0 (R91). -/
def rdcsrRecord (a : CsrAddr) : InputRecord := { idleRecord with csrAddr := a }

/-- A line `RDPB p` of its own (R91). -/
def rdpbRecord (p : Half) : InputRecord := { idleRecord with pbRaddr := p }

/-- A one-bit field of the command word. -/
def bit1 (x : Bool) : BitVec 1 := BitVec.ofBool x

/-- The command word with the fields given, concatenated from bit 30 down:
`{rst, in_valid, csr_we, csr_addr, csr_wdata, in_data}` (R84). -/
def packCommand (rst inValid csrWe : Bool) (a : CsrAddr) (v : Half) (b : Byte) : CommandWord :=
  bit1 rst ++ (bit1 inValid ++ (bit1 csrWe ++ (a ++ (v ++ b))))

/-- The command word of an input record; pb_raddr is not part of it (R84). -/
def InputRecord.command (r : InputRecord) : CommandWord :=
  packCommand r.rst r.inValid r.csrWe r.csrAddr r.csrWdata r.inData

/-- Bit 30 of the command word (R84). -/
def cwRst (w : CommandWord) : Bool := w.getLsbD 30
/-- Bit 29 of the command word (R84). -/
def cwInValid (w : CommandWord) : Bool := w.getLsbD 29
/-- Bit 28 of the command word (R84). -/
def cwCsrWe (w : CommandWord) : Bool := w.getLsbD 28
/-- Bits [27:24] of the command word (R84). -/
def cwCsrAddr (w : CommandWord) : CsrAddr := w.extractLsb' 24 4
/-- Bits [23:8] of the command word (R84). -/
def cwCsrWdata (w : CommandWord) : Half := w.extractLsb' 8 16
/-- Bits [7:0] of the command word (R84). -/
def cwInData (w : CommandWord) : Byte := w.extractLsb' 0 8

/-- The input record whose command word is `w`, with the payload read address given. -/
def recordOfCommand (w : CommandWord) (p : Half) : InputRecord :=
  { rst := cwRst w, inValid := cwInValid w, inData := cwInData w, csrWe := cwCsrWe w
    csrAddr := cwCsrAddr w, csrWdata := cwCsrWdata w, pbRaddr := p }

end Sys2Proof.Machine
end

