-- ==== Sys2Proof/Syntax.lean ====
section
/-! DEFINITION. The instructions: one constructor for each row of spec/opcode_table.json, in the table's order.
Command rows name what one cycle's inputs make the block do, read rows the two combinational reads, frame rows the
objects that arrive on the wire, FORMAT16 the bit field inside them, event rows what the block reports, and pseudo
rows the stimulus notation's expansions (spec/30_encoding.md R70 to R95). -/

namespace Sys2Proof

/-- One constructor per row of spec/opcode_table.json. -/
inductive Instr where
  -- format cmd (R84 to R86)
  | reset
  | nop
  | wrcsrMaxSize (v : Half)
  | wrcsrIgnored (a : CsrAddr) (v : Half)
  | pushWrcsr (a : CsrAddr) (v : Half) (b : Byte)
  | pushSeek (b : Byte)
  | pushSeekMatch (b : Byte)
  | pushHdrSizeHi (b : Byte)
  | pushHdrSizeLo (b : Byte)
  | pushHdrCrcLo (b : Byte)
  | pushHdrCrcHi (b : Byte)
  | pushHdrTypeHi (b : Byte)
  | pushHdrTypeLo (b : Byte)
  | pushHdrFmtHi (b : Byte)
  | pushHdrFmtLo (b : Byte)
  | pushPay (b : Byte)
  -- format read (R155, R156)
  | rdcsr (a : CsrAddr)
  | rdcsrMaxSize
  | rdcsrStatus
  | rdcsrSize
  | rdcsrCrcRx
  | rdcsrMsgType
  | rdcsrFormat
  | rdcsrWait
  | rdcsrCrcAcc
  | rdcsrSeekCnt
  | rdcsrWinLo
  | rdcsrWinHi
  | rdcsrReserved (a : CsrAddr)
  | rdpb (p : Half)
  -- format frame (R70, R81, R82): the 96-bit fixed region's free fields and the payload
  | frame (size crc msgType format : Half) (data : List Byte)
  | frameKeepalive (size crc format : Half) (data : List Byte)
  | framePositionReport (size crc format : Half) (data : List Byte)
  | frameAck (size crc format : Half) (data : List Byte)
  | frameNack (size crc format : Half) (data : List Byte)
  | frameDeviceCmd (size crc msgType format : Half) (data : List Byte)
  | frameLegacySetup (size crc msgType format : Half) (data : List Byte)
  | frameLifetimeHint1 (size crc format : Half) (data : List Byte)
  | frameLifetimeHint2 (size crc format : Half) (data : List Byte)
  | frameUnlisted (size crc msgType format : Half) (data : List Byte)
  -- format format16 (R76)
  | format16 (f : Half)
  -- format event (R87)
  | evFrameReady
  | evSizeOutOfBounds
  | evChecksumMismatch
  | evDesyncNoise
  -- format pseudo (R92 to R94)
  | idle (n : Nat)
  | feed (bytes : List Byte)
  | framePseudo (msgType format : Half) (data : List Byte)
  | frameForced (msgType format : Half) (data : List Byte) (crc : Half)
  deriving DecidableEq, Repr

end Sys2Proof
end

