-- ==== Sys2Proof/WellFormed.lean ====
section
/-! DEFINITION. Which instruction terms are a row of the table: the rows' "when" conditions on their own fields
and the lengths of payloads. Conditions on the machine's state are not here: Decode selects by state. -/

namespace Sys2Proof

/-- The message types of the row FRAME.DEVICE_CMD (R81). -/
def isDeviceCmd (t : Half) : Bool := decide (0x0004 ≤ t.toNat ∧ t.toNat ≤ 0x003F)

/-- The message types of the row FRAME.LEGACY_SETUP (R81). -/
def isLegacySetup (t : Half) : Bool := decide (0x0106 ≤ t.toNat ∧ t.toNat ≤ 0x010B)

/-- The message types that no other frame row lists (R81, R82). -/
def isUnlisted (t : Half) : Bool :=
  !(decide (t.toNat ≤ 0x0003) || isDeviceCmd t || isLegacySetup t
    || decide (t.toNat = 0x0201) || decide (t.toNat = 0x0202))

/-- A frame's payload has as many bytes as its size field says (R70, R72). -/
def sizeAgrees (size : Half) (data : List Byte) : Bool := decide (data.length = size.toNat)

/-- The rows' own conditions on their fields. -/
def Instr.wellFormed : Instr → Bool
  | .reset => true
  | .nop => true
  | .wrcsrMaxSize _ => true
  | .wrcsrIgnored a _ => decide (a ≠ 0)
  | .pushWrcsr _ _ _ => true
  | .pushSeek _ => true
  | .pushSeekMatch b => decide (b = 0x55)
  | .pushHdrSizeHi _ => true
  | .pushHdrSizeLo _ => true
  | .pushHdrCrcLo _ => true
  | .pushHdrCrcHi _ => true
  | .pushHdrTypeHi _ => true
  | .pushHdrTypeLo _ => true
  | .pushHdrFmtHi _ => true
  | .pushHdrFmtLo _ => true
  | .pushPay _ => true
  | .rdcsr _ => true
  | .rdcsrMaxSize => true
  | .rdcsrStatus => true
  | .rdcsrSize => true
  | .rdcsrCrcRx => true
  | .rdcsrMsgType => true
  | .rdcsrFormat => true
  | .rdcsrWait => true
  | .rdcsrCrcAcc => true
  | .rdcsrSeekCnt => true
  | .rdcsrWinLo => true
  | .rdcsrWinHi => true
  | .rdcsrReserved a => decide (0xB ≤ a.toNat)
  | .rdpb _ => true
  | .frame size _ _ _ data => sizeAgrees size data
  | .frameKeepalive size _ _ data => sizeAgrees size data
  | .framePositionReport size _ _ data => sizeAgrees size data
  | .frameAck size _ _ data => sizeAgrees size data
  | .frameNack size _ _ data => sizeAgrees size data
  | .frameDeviceCmd size _ t _ data => isDeviceCmd t && sizeAgrees size data
  | .frameLegacySetup size _ t _ data => isLegacySetup t && sizeAgrees size data
  | .frameLifetimeHint1 size _ _ data => sizeAgrees size data
  | .frameLifetimeHint2 size _ _ data => sizeAgrees size data
  | .frameUnlisted size _ t _ data => isUnlisted t && sizeAgrees size data
  | .format16 _ => true
  | .evFrameReady => true
  | .evSizeOutOfBounds => true
  | .evChecksumMismatch => true
  | .evDesyncNoise => true
  | .idle _ => true
  | .feed _ => true
  | .framePseudo _ _ data => decide (data.length ≤ 65535)
  | .frameForced _ _ data _ => decide (data.length ≤ 65535)

end Sys2Proof
end

