-- ==== Sys2Proof/Decode.lean ====
section
/-! DEFINITION. The decoder (spec/30_encoding.md R70 to R90: total, rejecting by name) and the encoder written from
the same encodings. Five things are encoded (R95): command words, read addresses, frames, format words and event
codes; pseudo-operations have no encoding and are written out as their expansion (R92 to R94). -/

namespace Sys2Proof

open Machine

/-- An encoded object of the table, by format (R95); the read rows come in their two widths. -/
inductive Encoded where
  | command (w : CommandWord)
  | csrRead (a : CsrAddr)
  | pbRead (p : Half)
  | frame (bytes : List Byte)
  | formatWord (f : Half)
  | event (k : BitVec 2)
  deriving DecidableEq, Repr

/-- The state the PUSH sub-decode looks at (R86). -/
structure PushContext where
  st : Phase
  wait : Half
  win : Window
  deriving DecidableEq, Repr

/-- Why the decoder rejects. -/
inductive DecodeError where
  /-- A PUSH in HeaderFound with WAIT outside 1 to 8 or in AwaitingPayload with WAIT 0: outside R86's table, no rule
  defines it, and it is not reachable (R40). -/
  | pushUndefined
  /-- A byte string that does not begin with the sentinel is no frame (R90 (a)). -/
  | noSentinel
  /-- A byte string shorter than the fixed region is no frame (R89). -/
  | frameTooShort
  /-- A byte string whose length is not 12 + size is no frame (R90 (b)). -/
  | frameLength
  deriving DecidableEq, Repr

/-- The context right after reset (R41). -/
def resetContext : PushContext := { st := .seek, wait := 0, win := 0 }

/-- The PUSH operation of Seeking: match or no match (R122, R123, which do not look at WAIT; assumption log 7). -/
def decodePushSeek (win : Window) (b : Byte) : Instr :=
  if candidate win b = sentinel then .pushSeekMatch b else .pushSeek b

/-- The PUSH operation of HeaderFound, by WAIT (R86). -/
def decodePushHdr (wait : Half) (b : Byte) : Except DecodeError Instr :=
  match wait.toNat with
  | 8 => .ok (.pushHdrSizeHi b)
  | 7 => .ok (.pushHdrSizeLo b)
  | 6 => .ok (.pushHdrCrcLo b)
  | 5 => .ok (.pushHdrCrcHi b)
  | 4 => .ok (.pushHdrTypeHi b)
  | 3 => .ok (.pushHdrTypeLo b)
  | 2 => .ok (.pushHdrFmtHi b)
  | 1 => .ok (.pushHdrFmtLo b)
  | _ => .error .pushUndefined

/-- The PUSH operation of AwaitingPayload (R86: WAIT >= 1). -/
def decodePushPay (wait : Half) (b : Byte) : Except DecodeError Instr :=
  if wait = 0 then .error .pushUndefined else .ok (.pushPay b)

/-- The PUSH sub-decode: which of the eleven operations one byte is (R86). -/
def decodePush (c : PushContext) (b : Byte) : Except DecodeError Instr :=
  match c.st with
  | .seek => .ok (decodePushSeek c.win b)
  | .hdr => decodePushHdr c.wait b
  | .pay => decodePushPay c.wait b

/-- A CSR write alone in its cycle (R153). -/
def decodeWrcsr (a : CsrAddr) (v : Half) : Instr :=
  if a = 0 then .wrcsrMaxSize v else .wrcsrIgnored a v

/-- The operation decode of a command word, in R85's priority. -/
def decodeCommand (c : PushContext) (w : CommandWord) : Except DecodeError Instr :=
  if cwRst w then .ok .reset
  else match cwInValid w, cwCsrWe w with
    | false, false => .ok .nop
    | false, true => .ok (decodeWrcsr (cwCsrAddr w) (cwCsrWdata w))
    | true, false => decodePush c (cwInData w)
    | true, true => .ok (.pushWrcsr (cwCsrAddr w) (cwCsrWdata w) (cwInData w))

/-- The read row of a CSR address (R35, R155). -/
def decodeCsrRead (a : CsrAddr) : Instr :=
  match a.toNat with
  | 0x0 => .rdcsrMaxSize
  | 0x1 => .rdcsrStatus
  | 0x2 => .rdcsrSize
  | 0x3 => .rdcsrCrcRx
  | 0x4 => .rdcsrMsgType
  | 0x5 => .rdcsrFormat
  | 0x6 => .rdcsrWait
  | 0x7 => .rdcsrCrcAcc
  | 0x8 => .rdcsrSeekCnt
  | 0x9 => .rdcsrWinLo
  | 0xA => .rdcsrWinHi
  | _ => .rdcsrReserved a

/-- The frame row of a message type (R81, R82): every 16-bit value has one. -/
def decodeFrameRow (size crc msgType format : Half) (data : List Byte) : Instr :=
  if msgType = 0x0000 then .frameKeepalive size crc format data
  else if msgType = 0x0001 then .framePositionReport size crc format data
  else if msgType = 0x0002 then .frameAck size crc format data
  else if msgType = 0x0003 then .frameNack size crc format data
  else if isDeviceCmd msgType then .frameDeviceCmd size crc msgType format data
  else if isLegacySetup msgType then .frameLegacySetup size crc msgType format data
  else if msgType = 0x0201 then .frameLifetimeHint1 size crc format data
  else if msgType = 0x0202 then .frameLifetimeHint2 size crc format data
  else .frameUnlisted size crc msgType format data

/-- The fixed region and the payload of a byte string, each field in its byte order (R51, R70, R89). Only the
layout is checked here (R90 (a), (b)): the size bound and the checksum are the block's to test. -/
def decodeFrame : List Byte → Except DecodeError Instr
  | b0 :: b1 :: b2 :: b3 :: b4 :: b5 :: b6 :: b7 :: b8 :: b9 :: b10 :: b11 :: data =>
    if [b0, b1, b2, b3] ≠ sentinelBytes then .error .noSentinel
    else if data.length ≠ (half b4 b5).toNat then .error .frameLength
    else .ok (decodeFrameRow (half b4 b5) (half b7 b6) (half b8 b9) (half b10 b11) data)
  | _ => .error .frameTooShort

/-- The event row of a code (R87). -/
def decodeEvent (k : BitVec 2) : Instr :=
  match k.toNat with
  | 0 => .evFrameReady
  | 1 => .evSizeOutOfBounds
  | 2 => .evChecksumMismatch
  | _ => .evDesyncNoise

/-- The decoder: total on every encoded object, in every context. -/
def decode (c : PushContext) : Encoded → Except DecodeError Instr
  | .command w => decodeCommand c w
  | .csrRead a => .ok (decodeCsrRead a)
  | .pbRead p => .ok (.rdpb p)
  | .frame bytes => decodeFrame bytes
  | .formatWord f => .ok (.format16 f)
  | .event k => .ok (decodeEvent k)

/-- The command word of a line `PUSH b` (R91). -/
def pushCommand (b : Byte) : CommandWord := packCommand false true false 0 0 b

/-- The encoder: the words of an instruction, written from the table; bits a row does not look at are 0. A
pseudo-operation is written as the command words of its expansion (R92 to R94). -/
def encode : Instr → List Encoded
  | .reset => [.command (packCommand true false false 0 0 0)]
  | .nop => [.command (packCommand false false false 0 0 0)]
  | .wrcsrMaxSize v => [.command (packCommand false false true 0 v 0)]
  | .wrcsrIgnored a v => [.command (packCommand false false true a v 0)]
  | .pushWrcsr a v b => [.command (packCommand false true true a v b)]
  | .pushSeek b => [.command (pushCommand b)]
  | .pushSeekMatch b => [.command (pushCommand b)]
  | .pushHdrSizeHi b => [.command (pushCommand b)]
  | .pushHdrSizeLo b => [.command (pushCommand b)]
  | .pushHdrCrcLo b => [.command (pushCommand b)]
  | .pushHdrCrcHi b => [.command (pushCommand b)]
  | .pushHdrTypeHi b => [.command (pushCommand b)]
  | .pushHdrTypeLo b => [.command (pushCommand b)]
  | .pushHdrFmtHi b => [.command (pushCommand b)]
  | .pushHdrFmtLo b => [.command (pushCommand b)]
  | .pushPay b => [.command (pushCommand b)]
  | .rdcsr a => [.csrRead a]
  | .rdcsrMaxSize => [.csrRead 0x0]
  | .rdcsrStatus => [.csrRead 0x1]
  | .rdcsrSize => [.csrRead 0x2]
  | .rdcsrCrcRx => [.csrRead 0x3]
  | .rdcsrMsgType => [.csrRead 0x4]
  | .rdcsrFormat => [.csrRead 0x5]
  | .rdcsrWait => [.csrRead 0x6]
  | .rdcsrCrcAcc => [.csrRead 0x7]
  | .rdcsrSeekCnt => [.csrRead 0x8]
  | .rdcsrWinLo => [.csrRead 0x9]
  | .rdcsrWinHi => [.csrRead 0xA]
  | .rdcsrReserved a => [.csrRead a]
  | .rdpb p => [.pbRead p]
  | .frame size crc t f data => [.frame (frameBytes size crc t f data)]
  | .frameKeepalive size crc f data => [.frame (frameBytes size crc 0x0000 f data)]
  | .framePositionReport size crc f data => [.frame (frameBytes size crc 0x0001 f data)]
  | .frameAck size crc f data => [.frame (frameBytes size crc 0x0002 f data)]
  | .frameNack size crc f data => [.frame (frameBytes size crc 0x0003 f data)]
  | .frameDeviceCmd size crc t f data => [.frame (frameBytes size crc t f data)]
  | .frameLegacySetup size crc t f data => [.frame (frameBytes size crc t f data)]
  | .frameLifetimeHint1 size crc f data => [.frame (frameBytes size crc 0x0201 f data)]
  | .frameLifetimeHint2 size crc f data => [.frame (frameBytes size crc 0x0202 f data)]
  | .frameUnlisted size crc t f data => [.frame (frameBytes size crc t f data)]
  | .format16 f => [.formatWord f]
  | .evFrameReady => [.event 0]
  | .evSizeOutOfBounds => [.event 1]
  | .evChecksumMismatch => [.event 2]
  | .evDesyncNoise => [.event 3]
  | .idle n => List.replicate n (.command (packCommand false false false 0 0 0))
  | .feed bytes => bytes.map fun b => .command (pushCommand b)
  | .framePseudo t f data => (encodeFrame t f data).map fun b => .command (pushCommand b)
  | .frameForced t f data crc =>
      (frameBytes (BitVec.ofNat 16 data.length) crc t f data).map fun b => .command (pushCommand b)

/-- The row the decoder answers for an instruction's word: the two generic rows RDCSR and FRAME cover the same words
as the rows of one address and of one message type, and the decoder answers the particular row (assumption log 12). -/
def Instr.particular : Instr → Instr
  | .rdcsr a => decodeCsrRead a
  | .frame size crc t f data => decodeFrameRow size crc t f data
  | i => i

/-- Whether a row is a pseudo-operation: no encoding of its own (R95). -/
def Instr.isPseudo : Instr → Bool
  | .idle _ => true
  | .feed _ => true
  | .framePseudo _ _ _ => true
  | .frameForced _ _ _ _ => true
  | _ => false

/-- Whether the sub-decode selects this row of PUSH in the context: R86's table, where the rows of Seeking are taken at
every WAIT (R122, R123; assumption log 7); true of every other row. -/
def Instr.selectedIn (i : Instr) (c : PushContext) : Bool :=
  match i with
  | .pushSeek b => decide (c.st = .seek ∧ candidate c.win b ≠ sentinel)
  | .pushSeekMatch b => decide (c.st = .seek ∧ candidate c.win b = sentinel)
  | .pushHdrSizeHi _ => decide (c.st = .hdr ∧ c.wait = 8)
  | .pushHdrSizeLo _ => decide (c.st = .hdr ∧ c.wait = 7)
  | .pushHdrCrcLo _ => decide (c.st = .hdr ∧ c.wait = 6)
  | .pushHdrCrcHi _ => decide (c.st = .hdr ∧ c.wait = 5)
  | .pushHdrTypeHi _ => decide (c.st = .hdr ∧ c.wait = 4)
  | .pushHdrTypeLo _ => decide (c.st = .hdr ∧ c.wait = 3)
  | .pushHdrFmtHi _ => decide (c.st = .hdr ∧ c.wait = 2)
  | .pushHdrFmtLo _ => decide (c.st = .hdr ∧ c.wait = 1)
  | .pushPay _ => decide (c.st = .pay ∧ c.wait ≠ 0)
  | _ => true

/-- Byte `k` of a number whose byte 0 is the least significant. -/
def byteOf (w k : Nat) : Byte := BitVec.ofNat 8 (w / 2 ^ (8 * k))

/-- The frame that a fixed region written as a number stands for: twelve bytes, the first the least significant,
and then as many zero bytes as its size field says. -/
def frameOfWord (w : Nat) : List Byte :=
  (List.range 12).map (byteOf w) ++ List.replicate (half (byteOf w 4) (byteOf w 5)).toNat 0

/-- The encoded object a table row's bits stand for, by the row's width in whole bytes: 1 is a CSR read address,
2 a payload read address, 4 a command word, 12 a frame's fixed region (assumption log 4). Bits beyond the row's
own are refused. -/
def encodedOfWord (nbits w : Nat) : Option Encoded :=
  match nbits with
  | 8 => if w < 16 then some (.csrRead (BitVec.ofNat 4 w)) else none
  | 16 => if w < 65536 then some (.pbRead (BitVec.ofNat 16 w)) else none
  | 32 => if w < 2147483648 then some (.command (BitVec.ofNat 31 w)) else none
  | 96 => if w < 79228162514264337593543950336 then some (.frame (frameOfWord w)) else none
  | _ => none

/-- The host's question: the instruction the decoder reads from a row's bits, in the reset context (a PUSH word is
the same in every context, so its row is always the one Seeking selects; assumption log 4). -/
def decodeTableWord (nbits w : Nat) : Option Instr :=
  match encodedOfWord nbits w with
  | none => none
  | some e =>
    match decode resetContext e with
    | .ok i => some i
    | .error _ => none

end Sys2Proof
end

