-- ==== Sys2Proof/Config.lean ====
section
/-! DEFINITION. The implementation parameters of one instance of the block (spec/00_scope.md R5, R6) and the free
values of the spec (spec/93_implementation_defined.md U5). The spec leaves all three OPEN, so each rests on a
constant without a body: nothing can be proved of its value. -/

namespace Sys2Proof

/-- The parameters of one instance: compile-time constants, not architectural state (R5, R6, R43). -/
structure Config where
  /-- MAX_SIZE_CEILING, 0 .. 65535: depth of the payload buffer and largest value of MAX_SIZE (R5). -/
  maxSizeCeiling : Half
  /-- SCAN_CEILING, 4 .. 65534: the unmatched bytes Seeking counts before it reports noise (R6). -/
  scanCeiling : Half
  deriving DecidableEq, Repr

/-- The range R6 gives SCAN_CEILING; MAX_SIZE_CEILING's range (R5) is its width. -/
abbrev Config.Legal (c : Config) : Prop :=
  4 ≤ c.scanCeiling.toNat ∧ c.scanCeiling.toNat ≤ 65534

/-- Free value: the MAX_SIZE_CEILING of the instance that the model's reset state describes (R5, OPEN). -/
opaque Config.openMaxSizeCeiling : Half

/-- Free value: fixes the SCAN_CEILING of the instance that the model's reset state describes (R6, OPEN). -/
opaque Config.openScanCeiling : Nat

/-- Free value: the byte a payload-buffer cell holds that nothing has written since power-up, by address
(U5 'any value'). -/
opaque Config.pbufPowerUp : Nat → Byte

/-- The parameters of the instance the model's reset state describes: every legal value is possible and no other
(R5, R6; assumption log 2). -/
def Config.chosen : Config :=
  { maxSizeCeiling := Config.openMaxSizeCeiling
    scanCeiling := BitVec.ofNat 16 (4 + Config.openScanCeiling % 65531) }

end Sys2Proof
end

