-- ==== Sys2Proof/Machine/State.lean ====
section
/-! DEFINITION. The machine's state: the tuple S of spec/10_state.md R20, field by field, and beside it four fields
of the model's own (the instance's parameters, the environment's pending inputs, and two records of what was
observed), which no rule of the block reads but where it names a parameter or an input. -/

namespace Sys2Proof.Machine

/-- Why a step stops with a fault. -/
inductive Fault where
  /-- A PUSH.PAY would write a payload cell at or above MAX_SIZE_CEILING: no such cell exists (R32, R57). Raised by
  PUSH.PAY, only in states outside R40. Safe: the hardware never gets there. -/
  | pbufWriteOutOfRange (addr : Nat)
  deriving DecidableEq, Repr

/-- Why a step is refused. -/
inductive Refusal where
  /-- An instruction without a meaning yet, by mnemonic. Raised by exec alone. Safe. -/
  | notModelled (mnemonic : String)
  /-- A row of PUSH is applied in a state outside the condition of its own rule (R122, R123, R125 to R133): ST and
  `{WIN, b}` in Seeking, whatever WAIT; ST and WAIT in HeaderFound; ST and `1 <= WAIT <= SIZE` in AwaitingPayload. The
  spec gives the row no effect there. Raised by the eleven PUSH meanings; a step applies the row its decoder selected,
  so it meets this refusal only where WAIT is above SIZE, which no reachable state has (R40). Safe. -/
  | pushRowNotSelected
  /-- A byte arrives in HeaderFound with WAIT outside 1 to 8, or in AwaitingPayload with WAIT outside 1 to SIZE: no
  rule defines PUSH there (R124, R133), and no such state is reachable (R40). Raised by every operation that pushes
  bytes and by a step. Safe. -/
  | pushUndefined
  deriving DecidableEq, Repr

/-- The payload buffer: the cells written since power-up with their bytes, addresses strictly rising (R32, U5). -/
abbrev Memory := List Host.Cell

/-- One instance of the block. -/
structure State where
  /-- ST (R21). -/
  st : Phase
  /-- WIN (R22). -/
  win : Window
  /-- SEEK_CNT (R23). -/
  seekCnt : Half
  /-- WAIT (R24). -/
  wait : Half
  /-- SIZE (R25). -/
  size : Half
  /-- CRC_RX (R26). -/
  crcRx : Half
  /-- MSGTYPE (R27). -/
  msgType : Half
  /-- FORMAT (R28). -/
  format : Half
  /-- CRC_ACC (R29). -/
  crcAcc : Half
  /-- MAX_SIZE (R30). -/
  maxSize : Half
  /-- EV_VALID (R31). -/
  evValid : Bool
  /-- EV_KIND (R31). -/
  evKind : EventKind
  /-- pbuf (R32). -/
  pbuf : Memory
  /-- The model's own: the parameters of this instance; nothing changes them (R5, R6, R43). -/
  cfg : Config
  /-- The model's own: the input records the environment will present, the next cycle's first (R11, R12). -/
  inputs : List InputRecord
  /-- The model's own: the outputs of the cycle that the last step ended (R12, R14). -/
  out : Output
  /-- The model's own: the events reported so far, in order (R14, R171); nothing reads it (R43). -/
  events : List FrameEvent
  deriving DecidableEq, Repr

/-- The output record before any cycle has been observed (assumption log 6). -/
def noOutput : Output :=
  { inReady := true, evValid := false, evKind := 0, evSize := 0, evCrc := 0, evMsgType := 0, evFormat := 0
    evCrypto := 0, evCompress := 0, evAck := false, csrRdata := 0, pbRdata := 0 }

/-- The machine right after reset (R41), the payload buffer as at power-up (nothing written), no input pending. -/
def State.reset : State :=
  { st := .seek
    win := 0
    seekCnt := 0
    wait := 0
    size := 0
    crcRx := 0
    msgType := 0
    format := 0
    crcAcc := crcInit
    maxSize := Config.chosen.maxSizeCeiling
    evValid := false
    evKind := .frameReady
    pbuf := []
    cfg := Config.chosen
    inputs := []
    out := noOutput
    events := [] }

end Sys2Proof.Machine
end

