-- ==== Sys2Proof/Machine/Flags.lean ====
section
/-! DEFINITION. The block's two flags EV_VALID and EV_KIND (spec/10_state.md R31) and the STATUS word that shows
them (R36). -/

namespace Sys2Proof.Machine

/-- `EV_VALID <- 0`, what every step that raises nothing does; EV_KIND keeps its value (R31). -/
def State.quiet (s : State) : State := { s with evValid := false }

/-- `EV_VALID <- 1; EV_KIND <- code(E)` (R170). -/
def State.setEvent (k : EventKind) (s : State) : State := { s with evValid := true, evKind := k }

/-- STATUS: ST in [1:0], EV_VALID in [2], EV_KIND in [4:3], the rest 0 (R36). -/
def statusWord (st : Phase) (evValid : Bool) (evKind : EventKind) : Half :=
  (0 : BitVec 11) ++ (evKind.code ++ (bit1 evValid ++ st.code))

/-- The verdict on a complete frame (R134): the running CRC against the received one. -/
def verdict (c crcRx : Half) : EventKind :=
  if c ^^^ crcXorout = crcRx then .frameReady else .checksumMismatch

end Sys2Proof.Machine
end

