-- ==== Sys2Proof/Machine/Ops.lean ====
section
/-! DEFINITION. The operations over the payload buffer, the CSRs and the registers that the meanings are built from:
memory reads and writes (spec/20_memory.md R57, R58), the CSR map (spec/10_state.md R35), enter_seek (R121), taking an
event (spec/60_exceptions.md R170, R179), complete (R134), the eleven PUSH operations (R122 to R133), the control
operations (spec/42_control_ops.md R150 to R156), feeding bytes (R93) and a cycle's bookkeeping (R10, R12). -/

namespace Sys2Proof.Machine

/-- What an operation answers. -/
abbrev Result := Host.Outcome State Fault Refusal

/-- Go on with a next state; a stop stays that stop. -/
def andThen (o : Result) (f : State → Result) : Result :=
  match o with
  | .next s => f s
  | .fault r => .fault r
  | .refused r => .refused r

/-! ## The payload buffer -/

/-- The byte a cell holds, none where nothing has been written since power-up (R32). -/
def Memory.lookup : Memory → Nat → Option Byte
  | [], _ => none
  | (x, v) :: m, a => if x = a then some v else Memory.lookup m a

/-- `pbuf[a] <- v`, keeping the addresses strictly rising (R57). -/
def Memory.store : Memory → Nat → Byte → Memory
  | [], a, v => [(a, v)]
  | (x, w) :: m, a, v =>
    if a < x then (a, v) :: (x, w) :: m
    else if a = x then (a, v) :: m
    else (x, w) :: Memory.store m a v

/-- The canonical form: addresses strictly rising, so one entry a cell. No entry equals what an unlisted address
holds, which is no value at all (assumption log 3). -/
def Memory.wf : Memory → Bool
  | [] => true
  | [_] => true
  | (x, _) :: (y, w) :: m => decide (x < y) && Memory.wf ((y, w) :: m)

/-- Every listed cell exists: its address is below the ceiling (R32). -/
def Memory.within (m : Memory) (ceiling : Nat) : Bool := m.all fun c => decide (c.1 < ceiling)

/-- The byte `pb_rdata` shows for an address: the cell, the free power-up byte where nothing has been written (U5),
and 0x00 outside the buffer (R58). -/
def State.pbRead (s : State) (a : Nat) : Byte :=
  if a < s.cfg.maxSizeCeiling.toNat then (Memory.lookup s.pbuf a).getD (Config.pbufPowerUp a) else 0

/-- `MemWrite(a, 1, v)` (R57). -/
def State.pbWrite (a : Nat) (v : Byte) (s : State) : State := { s with pbuf := Memory.store s.pbuf a v }

/-- `[pbuf[0], ..., pbuf[n-1]]` (R171). -/
def State.payload (s : State) (n : Nat) : List Byte := (List.range n).map s.pbRead

/-! ## The CSRs -/

/-- The value `csr_rdata` shows for an address (R35, R36, R37). -/
def State.csr (s : State) (a : CsrAddr) : Half :=
  match a.toNat with
  | 0x0 => s.maxSize
  | 0x1 => statusWord s.st s.evValid s.evKind
  | 0x2 => s.size
  | 0x3 => s.crcRx
  | 0x4 => s.msgType
  | 0x5 => s.format
  | 0x6 => s.wait
  | 0x7 => s.crcAcc
  | 0x8 => s.seekCnt
  | 0x9 => winLo s.win
  | 0xA => winHi s.win
  | _ => 0

/-- `min(v, MAX_SIZE_CEILING)`, unsigned (R30, R153). -/
def clampSize (ceiling v : Half) : Half := if ceiling < v then ceiling else v

/-- The register part of WRCSR (R153): only address 0x0 is writable (R37). -/
def State.writeCsr (a : CsrAddr) (v : Half) (s : State) : State :=
  if a = 0 then { s with maxSize := clampSize s.cfg.maxSizeCeiling v } else s

/-! ## Events -/

/-- enter_seek (R121). -/
def State.enterSeek (s : State) : State := { s with st := .seek, win := 0, seekCnt := 0, wait := 0 }

/-- The value of the event a state reports, read from its registers and buffer (R171). -/
def State.eventValue (s : State) (k : EventKind) : FrameEvent :=
  match k with
  | .frameReady =>
    .frameReady
      { header := sentinel, size := s.size, crc := s.crcRx, messageType := s.msgType, format := s.format
        data := s.payload s.size.toNat }
  | .sizeOutOfBounds => .frameRejected .sizeOutOfBounds
  | .checksumMismatch => .frameRejected .checksumMismatch
  | .desyncNoise => .frameRejected .desyncNoise

/-- Where the machine goes when an event is raised (R179): back to a fresh Seeking, but for DesyncNoise, which keeps
Seeking and its window and restarts the count at 3. -/
def State.eventTail (k : EventKind) (s : State) : State :=
  match k with
  | .frameReady => s.enterSeek
  | .sizeOutOfBounds => s.enterSeek
  | .checksumMismatch => s.enterSeek
  | .desyncNoise => { s with seekCnt := 3 }

/-- The observation of an event: appended to the record of the run (R14; assumption log 8). -/
def State.record (e : FrameEvent) (s : State) : State := { s with events := s.events ++ [e] }

/-- Taking an event (R170, R179), the one operation every event goes through: the flags, the tail, the observation.
No vector, no saved pc, no mode. There is no return operation (R180): the next byte is consumed normally. The event
rows use it as an instruction (assumption log 10). -/
def State.takeEvent (k : EventKind) (s : State) : State :=
  (s.eventTail k |>.setEvent k).record (s.eventValue k)

/-- complete(c') (R134). -/
def State.complete (c : Half) (s : State) : State := s.takeEvent (verdict c s.crcRx)

/-! ## The PUSH operations -/

/-- PUSH.SEEK, no match (R122). The count is compared as a natural number (R110; assumption log 13). -/
def State.pushSeekByte (b : Byte) (s : State) : State :=
  if s.cfg.scanCeiling.toNat < s.seekCnt.toNat + 1 then
    State.takeEvent .desyncNoise { s with win := shiftWindow s.win b }
  else { s with win := shiftWindow s.win b, seekCnt := s.seekCnt + 1 }.quiet

/-- PUSH.SEEK, match (R123). -/
def State.pushSentinel (s : State) : State :=
  { s with st := .hdr, wait := fixedRest, win := 0, seekCnt := 0, crcAcc := crcInit }.quiet

/-- `WAIT <- WAIT - 1` with no event, the common end of header indices 4 to 10 (R124). -/
def State.countDown (s : State) : State := { s with wait := s.wait - 1 }.quiet

/-- `CRC_ACC <- crc16_update(CRC_ACC, b)` (R29). -/
def State.cover (b : Byte) (s : State) : State := { s with crcAcc := crc16Update s.crcAcc b }

/-- Header index 4 (R125). -/
def State.pushSizeHi (b : Byte) (s : State) : State := { s with size := setHi s.size b }.countDown

/-- Header index 5 (R126). -/
def State.pushSizeLo (b : Byte) (s : State) : State := { s with size := setLo s.size b }.countDown

/-- Header index 6 (R127). -/
def State.pushCrcLo (b : Byte) (s : State) : State := { s with crcRx := setLo s.crcRx b }.countDown

/-- Header index 7 (R128). -/
def State.pushCrcHi (b : Byte) (s : State) : State := { s with crcRx := setHi s.crcRx b }.countDown

/-- Header index 8 (R129). -/
def State.pushTypeHi (b : Byte) (s : State) : State := ({ s with msgType := setHi s.msgType b }.cover b).countDown

/-- Header index 9 (R130). -/
def State.pushTypeLo (b : Byte) (s : State) : State := ({ s with msgType := setLo s.msgType b }.cover b).countDown

/-- Header index 10 (R131). -/
def State.pushFmtHi (b : Byte) (s : State) : State := ({ s with format := setHi s.format b }.cover b).countDown

/-- What header index 11 decides once the byte is loaded and covered (R132): the size bound against MAX_SIZE as it
is before the edge, the empty payload, or the payload phase. -/
def State.endHeader (s : State) : State :=
  if s.maxSize < s.size then s.takeEvent .sizeOutOfBounds
  else if s.size = 0 then s.complete s.crcAcc
  else { s with st := .pay, wait := s.size }.quiet

/-- Header index 11 (R132). -/
def State.pushFmtLo (b : Byte) (s : State) : State := ({ s with format := setLo s.format b }.cover b).endHeader

/-- The payload index of the next byte, `SIZE - WAIT` (R24, R133). -/
def State.payloadIndex (s : State) : Nat := (s.size - s.wait).toNat

/-- What a payload byte decides once it is stored and covered (R133). -/
def State.endPayload (s : State) : State := if s.wait = 1 then s.complete s.crcAcc else s.countDown

/-- PUSH.PAY (R133): the byte is stored before the verdict exists; a cell the buffer does not have faults (R57). -/
def State.pushPayload (b : Byte) (s : State) : Result :=
  if s.payloadIndex < s.cfg.maxSizeCeiling.toNat then
    .next ((s.pbWrite s.payloadIndex b).cover b).endPayload
  else .fault (.pbufWriteOutOfRange s.payloadIndex)

/-- Whether PUSH.PAY is defined: `1 <= WAIT <= SIZE` (R133). -/
def State.payloadOpen (s : State) : Bool := decide (1 ≤ s.wait.toNat ∧ s.wait.toNat ≤ s.size.toNat)

/-- PUSH in HeaderFound, by WAIT (R86, R124). -/
def State.pushHeader (b : Byte) (s : State) : Result :=
  match s.wait.toNat with
  | 8 => .next (s.pushSizeHi b)
  | 7 => .next (s.pushSizeLo b)
  | 6 => .next (s.pushCrcLo b)
  | 5 => .next (s.pushCrcHi b)
  | 4 => .next (s.pushTypeHi b)
  | 3 => .next (s.pushTypeLo b)
  | 2 => .next (s.pushFmtHi b)
  | 1 => .next (s.pushFmtLo b)
  | _ => .refused .pushUndefined

/-- One byte pushed: the rule that (ST, WAIT) selects (R120). -/
def State.push (b : Byte) (s : State) : Result :=
  match s.st with
  | .seek => .next (if candidate s.win b = sentinel then s.pushSentinel else s.pushSeekByte b)
  | .hdr => s.pushHeader b
  | .pay => if s.payloadOpen then s.pushPayload b else .refused .pushUndefined

/-- A row of PUSH applies only under the condition of its own rule (R122, R123, R125 to R133; assumption log 7). -/
def whenSelected (selected : Bool) (o : Result) : Result :=
  if selected then o else .refused .pushRowNotSelected

/-- Header index `12 - WAIT` is next (R124). -/
def State.atHeader (s : State) (wait : Half) : Bool := decide (s.st = .hdr ∧ s.wait = wait)

/-- FEED (R93): the bytes pushed one a cycle, in order (assumption log 11). -/
def feedBytes : List Byte → State → Result
  | [], s => .next s
  | b :: bs, s => andThen (s.push b) (feedBytes bs)

/-! ## The control operations -/

/-- RESET (R150): every register to its reset value; the payload buffer keeps its bytes. -/
def State.resetRegisters (s : State) : State :=
  { s with
    st := .seek, win := 0, seekCnt := 0, wait := 0, size := 0, crcRx := 0, msgType := 0, format := 0
    crcAcc := crcInit, maxSize := s.cfg.maxSizeCeiling, evValid := false, evKind := .frameReady }

/-- WRCSR alone in its cycle (R153). -/
def State.wrcsr (a : CsrAddr) (v : Half) (s : State) : State := (s.writeCsr a v).quiet

/-- PUSH together with WRCSR (R154): the PUSH reads the old MAX_SIZE, the write lands beside it. -/
def State.pushAndWrcsr (a : CsrAddr) (v : Half) (b : Byte) (s : State) : Result :=
  andThen (s.push b) fun t => .next (t.writeCsr a v)

/-- IDLE n (R92): `n` cycles of NOP. -/
def State.idleCycles (n : Nat) (s : State) : State :=
  match n with
  | 0 => s
  | n + 1 => State.idleCycles n s.quiet

/-- RDCSR (R155): the value appears on `csr_rdata`; nothing else changes. -/
def State.showCsr (v : Half) (s : State) : State := { s with out := { s.out with csrRdata := v } }

/-- RDPB (R156): the byte appears on `pb_rdata`; nothing else changes. -/
def State.showPb (v : Byte) (s : State) : State := { s with out := { s.out with pbRdata := v } }

/-- decodeFormat on the outputs that carry it (R101, R12; assumption log 9): the word and its three fields. -/
def State.showFormat (f : Half) (s : State) : State :=
  { s with out :=
    { s.out with
      evFormat := f
      evCrypto := (decodeFormat f).cryptoType
      evCompress := (decodeFormat f).compressType
      evAck := (decodeFormat f).ackRequired } }

/-! ## A cycle -/

/-- The output record of a cycle (R12): a function of the state and the two read addresses alone. -/
def State.outputs (s : State) (a : CsrAddr) (p : Half) : Output :=
  { inReady := true
    evValid := s.evValid
    evKind := s.evKind.code
    evSize := s.size
    evCrc := s.crcRx
    evMsgType := s.msgType
    evFormat := s.format
    evCrypto := (decodeFormat s.format).cryptoType
    evCompress := (decodeFormat s.format).compressType
    evAck := (decodeFormat s.format).ackRequired
    csrRdata := s.csr a
    pbRdata := s.pbRead p.toNat }

/-- The input record of the coming cycle: the environment's next one, a quiet cycle where none is pending
(assumption log 5). -/
def State.nextInput (s : State) : InputRecord := s.inputs.headD idleRecord

/-- The start of a cycle: its input record is taken and the outputs that need no address are on their ports (R10,
R12). The two read ports are left to the read operations of the cycle. -/
def State.beginCycle (s : State) : State :=
  { s with
    inputs := s.inputs.tail
    out := { s.outputs 0 0 with csrRdata := s.out.csrRdata, pbRdata := s.out.pbRdata } }

/-- What the PUSH sub-decode sees of the state (R86). -/
def State.context (s : State) : PushContext := { st := s.st, wait := s.wait, win := s.win }

/-- The operation a cycle's command word is (R85). -/
def State.fetch (s : State) : Except DecodeError Instr := decode s.context (.command s.nextInput.command)

/-- The input records by which an encoded object reaches the block: one cycle for a command word or a read, one
PUSH a byte for a frame. A format word and an event code reach it by no input of their own. -/
def recordsOf : Encoded → List InputRecord
  | .command w => [recordOfCommand w 0]
  | .csrRead a => [rdcsrRecord a]
  | .pbRead p => [rdpbRecord p]
  | .frame bytes => bytes.map pushRecord
  | .formatWord _ => []
  | .event _ => []

/-- The input records of a table row's bits (assumption log 4). -/
def recordsOfWord (nbits w : Nat) : List InputRecord :=
  match encodedOfWord nbits w with
  | none => []
  | some e => recordsOf e

end Sys2Proof.Machine
end

