-- ==== Sys2Proof/Machine/Control.lean ====
section
/-! DEFINITION. The meanings of the control operations: RESET, NOP, the two WRCSR rows and PUSH together with WRCSR
(spec/42_control_ops.md R150 to R154). -/

namespace Sys2Proof.Machine

/-- RESET (R150). -/
def execReset (s : State) : Result := .next s.resetRegisters

/-- NOP (R151). -/
def execNop (s : State) : Result := .next s.quiet

/-- WRCSR.MAX_SIZE (R153). -/
def execWrcsrMaxSize (v : Half) (s : State) : Result := .next (s.wrcsr 0 v)

/-- WRCSR.IGNORED (R153, R37). -/
def execWrcsrIgnored (a : CsrAddr) (v : Half) (s : State) : Result := .next (s.wrcsr a v)

/-- PUSH+WRCSR (R154). -/
def execPushWrcsr (a : CsrAddr) (v : Half) (b : Byte) (s : State) : Result := s.pushAndWrcsr a v b

end Sys2Proof.Machine
end

