-- ==== Sys2Proof/Machine/Events.lean ====
section
/-! DEFINITION. The meanings of FORMAT16 (spec/30_encoding.md R76, spec/40_frame_model.md R101) and of the four event
rows (spec/60_exceptions.md R172 to R175): the extraction of the format fields onto the outputs, and the taking of the
event, the operation every PUSH that raises goes through. -/

namespace Sys2Proof.Machine

/-- FORMAT16: decodeFormat on the outputs (R76, R101). A pure extraction: no register changes. -/
def execFormat16 (f : Half) (s : State) : Result := .next (s.showFormat f)

/-- EV.FrameReady (R172, R179). -/
def execEvFrameReady (s : State) : Result := .next (s.takeEvent .frameReady)

/-- EV.SizeOutOfBounds (R173, R179). -/
def execEvSizeOutOfBounds (s : State) : Result := .next (s.takeEvent .sizeOutOfBounds)

/-- EV.ChecksumMismatch (R174, R179). -/
def execEvChecksumMismatch (s : State) : Result := .next (s.takeEvent .checksumMismatch)

/-- EV.DesyncNoise (R175, R179). -/
def execEvDesyncNoise (s : State) : Result := .next (s.takeEvent .desyncNoise)

end Sys2Proof.Machine
end

