-- ==== Sys2Proof/Machine/Frames.lean ====
section
/-! DEFINITION. The meanings of the frame rows: a frame on the wire is its 12 + size bytes, consumed by PUSH one a
cycle (spec/30_encoding.md R70, R89; the table: 'decoded by the PUSH rows'). The block never looks at the message type
(R82), so the rows differ in nothing but it. -/

namespace Sys2Proof.Machine

/-- A frame arrives: its bytes are pushed in wire order (R70; assumption log 11). -/
def State.receiveFrame (size crc msgType format : Half) (data : List Byte) (s : State) : Result :=
  feedBytes (frameBytes size crc msgType format data) s

/-- FRAME, any message type (R70). -/
def execFrame (size crc msgType format : Half) (data : List Byte) (s : State) : Result :=
  s.receiveFrame size crc msgType format data

/-- FRAME.KEEPALIVE, message type 0x0000 (R81). -/
def execFrameKeepalive (size crc format : Half) (data : List Byte) (s : State) : Result :=
  s.receiveFrame size crc 0x0000 format data

/-- FRAME.POSITION_REPORT, message type 0x0001 (R81). -/
def execFramePositionReport (size crc format : Half) (data : List Byte) (s : State) : Result :=
  s.receiveFrame size crc 0x0001 format data

/-- FRAME.ACK, message type 0x0002 (R81). -/
def execFrameAck (size crc format : Half) (data : List Byte) (s : State) : Result :=
  s.receiveFrame size crc 0x0002 format data

/-- FRAME.NACK, message type 0x0003 (R81). -/
def execFrameNack (size crc format : Half) (data : List Byte) (s : State) : Result :=
  s.receiveFrame size crc 0x0003 format data

/-- FRAME.DEVICE_CMD, message types 0x0004 to 0x003F (R81). -/
def execFrameDeviceCmd (size crc msgType format : Half) (data : List Byte) (s : State) : Result :=
  s.receiveFrame size crc msgType format data

/-- FRAME.LEGACY_SETUP, message types 0x0106 to 0x010B (R81). -/
def execFrameLegacySetup (size crc msgType format : Half) (data : List Byte) (s : State) : Result :=
  s.receiveFrame size crc msgType format data

/-- FRAME.LIFETIME_HINT_1, message type 0x0201; the ack restriction is not the block's (R81, R82). -/
def execFrameLifetimeHint1 (size crc format : Half) (data : List Byte) (s : State) : Result :=
  s.receiveFrame size crc 0x0201 format data

/-- FRAME.LIFETIME_HINT_2, message type 0x0202; the ack restriction is not the block's (R81, R82). -/
def execFrameLifetimeHint2 (size crc format : Half) (data : List Byte) (s : State) : Result :=
  s.receiveFrame size crc 0x0202 format data

/-- FRAME.UNLISTED, any other message type: accepted and passed through (R82). -/
def execFrameUnlisted (size crc msgType format : Half) (data : List Byte) (s : State) : Result :=
  s.receiveFrame size crc msgType format data

end Sys2Proof.Machine
end

