-- ==== Sys2Proof/Machine/Pseudo.lean ====
section
/-! DEFINITION. The meanings of the pseudo-operations (spec/30_encoding.md R92 to R94): the cycles they expand to, run
one after the other. -/

namespace Sys2Proof.Machine

/-- IDLE n: n NOP cycles (R92). -/
def execIdle (n : Nat) (s : State) : Result := .next (s.idleCycles n)

/-- FEED: one PUSH a byte (R93). -/
def execFeed (bytes : List Byte) (s : State) : Result := feedBytes bytes s

/-- FRAME type format data: FEED of the encoded frame (R94, R108). -/
def execFramePseudo (msgType format : Half) (data : List Byte) (s : State) : Result :=
  feedBytes (encodeFrame msgType format data) s

/-- FRAME! type format data crc: the same bytes with the crc field forced, low byte first (R94). -/
def execFrameForced (msgType format : Half) (data : List Byte) (crc : Half) (s : State) : Result :=
  feedBytes (frameBytes (BitVec.ofNat 16 data.length) crc msgType format data) s

end Sys2Proof.Machine
end

