-- ==== Sys2Proof/Machine/Push.lean ====
section
/-! DEFINITION. The meanings of the eleven PUSH rows (spec/41_stream_reassembler.md R122 to R133), each in the states
that its own rule gives it (assumption log 7). -/

namespace Sys2Proof.Machine

/-- PUSH.SEEK (R122). -/
def execPushSeek (b : Byte) (s : State) : Result :=
  whenSelected (decide (s.st = .seek ∧ candidate s.win b ≠ sentinel)) (.next (s.pushSeekByte b))

/-- PUSH.SEEK.MATCH (R123). -/
def execPushSeekMatch (b : Byte) (s : State) : Result :=
  whenSelected (decide (s.st = .seek ∧ candidate s.win b = sentinel)) (.next s.pushSentinel)

/-- PUSH.HDR.SIZE_HI (R125). -/
def execPushHdrSizeHi (b : Byte) (s : State) : Result := whenSelected (s.atHeader 8) (.next (s.pushSizeHi b))

/-- PUSH.HDR.SIZE_LO (R126). -/
def execPushHdrSizeLo (b : Byte) (s : State) : Result := whenSelected (s.atHeader 7) (.next (s.pushSizeLo b))

/-- PUSH.HDR.CRC_LO (R127). -/
def execPushHdrCrcLo (b : Byte) (s : State) : Result := whenSelected (s.atHeader 6) (.next (s.pushCrcLo b))

/-- PUSH.HDR.CRC_HI (R128). -/
def execPushHdrCrcHi (b : Byte) (s : State) : Result := whenSelected (s.atHeader 5) (.next (s.pushCrcHi b))

/-- PUSH.HDR.TYPE_HI (R129). -/
def execPushHdrTypeHi (b : Byte) (s : State) : Result := whenSelected (s.atHeader 4) (.next (s.pushTypeHi b))

/-- PUSH.HDR.TYPE_LO (R130). -/
def execPushHdrTypeLo (b : Byte) (s : State) : Result := whenSelected (s.atHeader 3) (.next (s.pushTypeLo b))

/-- PUSH.HDR.FMT_HI (R131). -/
def execPushHdrFmtHi (b : Byte) (s : State) : Result := whenSelected (s.atHeader 2) (.next (s.pushFmtHi b))

/-- PUSH.HDR.FMT_LO (R132). -/
def execPushHdrFmtLo (b : Byte) (s : State) : Result := whenSelected (s.atHeader 1) (.next (s.pushFmtLo b))

/-- PUSH.PAY (R133). -/
def execPushPay (b : Byte) (s : State) : Result :=
  whenSelected (decide (s.st = .pay) && s.payloadOpen) (s.pushPayload b)

end Sys2Proof.Machine
end

