-- ==== Sys2Proof/Machine/Reads.lean ====
section
/-! DEFINITION. The meanings of the read rows (spec/42_control_ops.md R155, R156): the value of a register or of a
payload cell on the read port, and no other effect. -/

namespace Sys2Proof.Machine

/-- RDCSR, any address (R155). -/
def execRdcsr (a : CsrAddr) (s : State) : Result := .next (s.showCsr (s.csr a))

/-- RDCSR.MAX_SIZE (R155, R30). -/
def execRdcsrMaxSize (s : State) : Result := .next (s.showCsr (s.csr 0x0))

/-- RDCSR.STATUS (R155, R36). -/
def execRdcsrStatus (s : State) : Result := .next (s.showCsr (s.csr 0x1))

/-- RDCSR.SIZE (R155, R25). -/
def execRdcsrSize (s : State) : Result := .next (s.showCsr (s.csr 0x2))

/-- RDCSR.CRC_RX (R155, R26). -/
def execRdcsrCrcRx (s : State) : Result := .next (s.showCsr (s.csr 0x3))

/-- RDCSR.MSGTYPE (R155, R27). -/
def execRdcsrMsgType (s : State) : Result := .next (s.showCsr (s.csr 0x4))

/-- RDCSR.FORMAT (R155, R28). -/
def execRdcsrFormat (s : State) : Result := .next (s.showCsr (s.csr 0x5))

/-- RDCSR.WAIT (R155, R24). -/
def execRdcsrWait (s : State) : Result := .next (s.showCsr (s.csr 0x6))

/-- RDCSR.CRC_ACC (R155, R29). -/
def execRdcsrCrcAcc (s : State) : Result := .next (s.showCsr (s.csr 0x7))

/-- RDCSR.SEEK_CNT (R155, R23). -/
def execRdcsrSeekCnt (s : State) : Result := .next (s.showCsr (s.csr 0x8))

/-- RDCSR.WIN_LO (R155, R22). -/
def execRdcsrWinLo (s : State) : Result := .next (s.showCsr (s.csr 0x9))

/-- RDCSR.WIN_HI (R155, R22). -/
def execRdcsrWinHi (s : State) : Result := .next (s.showCsr (s.csr 0xA))

/-- RDCSR.RESERVED (R155, R37). -/
def execRdcsrReserved (a : CsrAddr) (s : State) : Result := .next (s.showCsr (s.csr a))

/-- RDPB (R156). -/
def execRdpb (p : Half) (s : State) : Result := .next (s.showPb (s.pbRead p.toNat))

end Sys2Proof.Machine
end

