-- ==== Sys2Proof/Machine/Dispatch.lean ====
section
/-! DEFINITION. The meaning of every instruction: one arm per row of spec/opcode_table.json, one call each. -/

namespace Sys2Proof.Machine

/-- What an instruction does. -/
def exec (i : Instr) (s : State) : Host.Outcome State Fault Refusal :=
  match i with
  | .reset => Sys2Proof.Machine.execReset s
  | .nop => Sys2Proof.Machine.execNop s
  | .wrcsrMaxSize v => Sys2Proof.Machine.execWrcsrMaxSize v s
  | .wrcsrIgnored a v => Sys2Proof.Machine.execWrcsrIgnored a v s
  | .pushWrcsr a v b => Sys2Proof.Machine.execPushWrcsr a v b s
  | .pushSeek b => Sys2Proof.Machine.execPushSeek b s
  | .pushSeekMatch b => Sys2Proof.Machine.execPushSeekMatch b s
  | .pushHdrSizeHi b => Sys2Proof.Machine.execPushHdrSizeHi b s
  | .pushHdrSizeLo b => Sys2Proof.Machine.execPushHdrSizeLo b s
  | .pushHdrCrcLo b => Sys2Proof.Machine.execPushHdrCrcLo b s
  | .pushHdrCrcHi b => Sys2Proof.Machine.execPushHdrCrcHi b s
  | .pushHdrTypeHi b => Sys2Proof.Machine.execPushHdrTypeHi b s
  | .pushHdrTypeLo b => Sys2Proof.Machine.execPushHdrTypeLo b s
  | .pushHdrFmtHi b => Sys2Proof.Machine.execPushHdrFmtHi b s
  | .pushHdrFmtLo b => Sys2Proof.Machine.execPushHdrFmtLo b s
  | .pushPay b => Sys2Proof.Machine.execPushPay b s
  | .rdcsr a => Sys2Proof.Machine.execRdcsr a s
  | .rdcsrMaxSize => Sys2Proof.Machine.execRdcsrMaxSize s
  | .rdcsrStatus => Sys2Proof.Machine.execRdcsrStatus s
  | .rdcsrSize => Sys2Proof.Machine.execRdcsrSize s
  | .rdcsrCrcRx => Sys2Proof.Machine.execRdcsrCrcRx s
  | .rdcsrMsgType => Sys2Proof.Machine.execRdcsrMsgType s
  | .rdcsrFormat => Sys2Proof.Machine.execRdcsrFormat s
  | .rdcsrWait => Sys2Proof.Machine.execRdcsrWait s
  | .rdcsrCrcAcc => Sys2Proof.Machine.execRdcsrCrcAcc s
  | .rdcsrSeekCnt => Sys2Proof.Machine.execRdcsrSeekCnt s
  | .rdcsrWinLo => Sys2Proof.Machine.execRdcsrWinLo s
  | .rdcsrWinHi => Sys2Proof.Machine.execRdcsrWinHi s
  | .rdcsrReserved a => Sys2Proof.Machine.execRdcsrReserved a s
  | .rdpb p => Sys2Proof.Machine.execRdpb p s
  | .frame size crc msgType format data => Sys2Proof.Machine.execFrame size crc msgType format data s
  | .frameKeepalive size crc format data => Sys2Proof.Machine.execFrameKeepalive size crc format data s
  | .framePositionReport size crc format data => Sys2Proof.Machine.execFramePositionReport size crc format data s
  | .frameAck size crc format data => Sys2Proof.Machine.execFrameAck size crc format data s
  | .frameNack size crc format data => Sys2Proof.Machine.execFrameNack size crc format data s
  | .frameDeviceCmd size crc msgType format data => Sys2Proof.Machine.execFrameDeviceCmd size crc msgType format data s
  | .frameLegacySetup size crc msgType format data => Sys2Proof.Machine.execFrameLegacySetup size crc msgType format data s
  | .frameLifetimeHint1 size crc format data => Sys2Proof.Machine.execFrameLifetimeHint1 size crc format data s
  | .frameLifetimeHint2 size crc format data => Sys2Proof.Machine.execFrameLifetimeHint2 size crc format data s
  | .frameUnlisted size crc msgType format data => Sys2Proof.Machine.execFrameUnlisted size crc msgType format data s
  | .format16 f => Sys2Proof.Machine.execFormat16 f s
  | .evFrameReady => Sys2Proof.Machine.execEvFrameReady s
  | .evSizeOutOfBounds => Sys2Proof.Machine.execEvSizeOutOfBounds s
  | .evChecksumMismatch => Sys2Proof.Machine.execEvChecksumMismatch s
  | .evDesyncNoise => Sys2Proof.Machine.execEvDesyncNoise s
  | .idle n => Sys2Proof.Machine.execIdle n s
  | .feed bytes => Sys2Proof.Machine.execFeed bytes s
  | .framePseudo msgType format data => Sys2Proof.Machine.execFramePseudo msgType format data s
  | .frameForced msgType format data crc => Sys2Proof.Machine.execFrameForced msgType format data crc s

end Sys2Proof.Machine
end

