-- ==== Sys2Proof/Machine/Cycle.lean ====
section
/-! DEFINITION. The operations of one clock cycle: the two read operations, which every cycle performs, and the
operation of its command word (spec/30_encoding.md R85). -/

namespace Sys2Proof.Machine

/-- The operations of a cycle, in an order that cannot be observed: the reads write only their own output ports and
see the registers before the edge (R61, R85; assumption log 17). -/
def cycle (i : Instr) (r : InputRecord) (s : State) : Host.Outcome State Fault Refusal :=
  andThen (exec (decodeCsrRead r.csrAddr) s) fun s1 =>
    andThen (exec (.rdpb r.pbRaddr) s1) fun s2 => exec i s2

end Sys2Proof.Machine
end

