-- ==== Sys2Proof/Machine/Step.lean ====
section
/-! DEFINITION. One step: one clock cycle (spec/00_scope.md R10). The two read operations of the cycle deliver their
values from the state before the edge, and the operation of its command word takes effect (spec/30_encoding.md R85). -/

namespace Sys2Proof.Machine

/-- One clock cycle. -/
def step (s : State) : Host.Outcome State Fault Refusal :=
  match s.fetch with
  | .error _ => .refused .pushUndefined
  | .ok i => cycle i s.nextInput s.beginCycle

/-- The state whose next cycle presents the instruction of a table row's bits: its input records stand before those
already pending (assumption log 4). -/
def State.withFetchWord (s : State) (nbits w : Nat) : State :=
  { s with inputs := recordsOfWord nbits w ++ s.inputs }

end Sys2Proof.Machine
end

