-- ==== Sys2Proof/Safety.lean ====
section
/-! DEFINITION. What the claims call a good state: the invariants of reachable states of spec/10_state.md R40, with
the facts about the window and the event strobe that the spec derives beside them (R22, R31, R180), and what it means
that a run is safe. -/

namespace Sys2Proof.Machine

/-- Seeking is fresh: nothing consumed since it was entered (R121). -/
abbrev State.FreshSeek (s : State) : Prop := s.st = .seek ∧ s.win = 0 ∧ s.seekCnt = 0 ∧ s.wait = 0

/-- The window positions not yet filled are zero (R22): fewer than three bytes counted leave the top byte zero,
fewer than two the top two, and none all three. -/
abbrev windowFill (seekCnt : Half) (win : Window) : Prop :=
  (seekCnt.toNat < 3 → win.toNat < 65536) ∧ (seekCnt.toNat < 2 → win.toNat < 256) ∧ (seekCnt.toNat < 1 → win.toNat = 0)

/-- The invariants of reachable states (R40 items 1 to 5 and 7; item 1 is the type Phase, item 6 the part of it that a
state can show), with the parameter range of R6 and what an event cycle looks like (R171, R179). -/
structure Inv (s : State) : Prop where
  cfg_legal : s.cfg.Legal
  seek_parked : s.st = .seek → s.wait = 0 ∧ s.seekCnt.toNat ≤ s.cfg.scanCeiling.toNat ∧ windowFill s.seekCnt s.win
  hdr_open : s.st = .hdr → 1 ≤ s.wait.toNat ∧ s.wait.toNat ≤ 8 ∧ s.win = 0 ∧ s.seekCnt = 0
  pay_open : s.st = .pay → 1 ≤ s.wait.toNat ∧ s.wait.toNat ≤ s.size.toNat
    ∧ s.size.toNat ≤ s.cfg.maxSizeCeiling.toNat ∧ s.win = 0 ∧ s.seekCnt = 0
  max_size_clamped : s.maxSize.toNat ≤ s.cfg.maxSizeCeiling.toNat
  pbuf_sorted : Memory.wf s.pbuf = true
  pbuf_within : Memory.within s.pbuf s.cfg.maxSizeCeiling.toNat = true
  event_cycle : s.evValid = true →
    s.st = .seek ∧ (s.evKind ≠ .desyncNoise → s.win = 0 ∧ s.seekCnt = 0) ∧ (s.evKind = .desyncNoise → s.seekCnt = 3)

/-- The wire fields of a frame row: size, crc, message type, format and payload (R70, R81). -/
def frameFields : Instr → Option (Half × Half × Half × Half × List Byte)
  | .frame size crc t f data => some (size, crc, t, f, data)
  | .frameKeepalive size crc f data => some (size, crc, 0x0000, f, data)
  | .framePositionReport size crc f data => some (size, crc, 0x0001, f, data)
  | .frameAck size crc f data => some (size, crc, 0x0002, f, data)
  | .frameNack size crc f data => some (size, crc, 0x0003, f, data)
  | .frameDeviceCmd size crc t f data => some (size, crc, t, f, data)
  | .frameLegacySetup size crc t f data => some (size, crc, t, f, data)
  | .frameLifetimeHint1 size crc f data => some (size, crc, 0x0201, f, data)
  | .frameLifetimeHint2 size crc f data => some (size, crc, 0x0202, f, data)
  | .frameUnlisted size crc t f data => some (size, crc, t, f, data)
  | _ => none

/-- The event a frame gives whose size is within bounds (R90 (d), R134, R171): the frame itself, or the reason. -/
def frameEvent (size crc msgType format : Half) (data : List Byte) : FrameEvent :=
  if crc = crc16 (coveredBytes msgType format data) then
    .frameReady
      { header := 0xAA55AA55, size := size, crc := crc, messageType := msgType, format := format, data := data }
  else .frameRejected .checksumMismatch

/-- Whether four consecutive bytes of a string are the sentinel `AA 55 AA 55` (R71, R139). -/
def hasSentinel : List Byte → Bool
  | a :: b :: c :: d :: rest =>
    decide (a = 0xAA ∧ b = 0x55 ∧ c = 0xAA ∧ d = 0x55) || hasSentinel (b :: c :: d :: rest)
  | _ => false

/-- A cycle that neither resets, nor writes a CSR: a byte or nothing, with any read addresses (R93, R138). -/
def plainCycle (r : InputRecord) : Bool := !r.rst && !r.csrWe

/-- The bytes that a run of cycles presents, in order (R13). -/
def bytesOf (rs : List InputRecord) : List Byte := (rs.filter fun r => r.inValid).map fun r => r.inData

/-- A run of any length from this state stops at no fault and no refusal. -/
def RunsOn (s : State) : Prop := ∀ k, ∃ t, Host.Core.run Sys2Proof.core k s = .next t

end Sys2Proof.Machine
end

