-- ==== Sys2Proof/Certificates/Slice0/Obligations.lean ====
section
/-! DEFINITION. The statements for the provers, from the numbered rules of spec/. An equation
`exec i s = .next { s with ... }` says at once that the instruction completes, what it writes, and that every other
field of the state (every register, flag, payload cell, parameter, pending input, output and reported event) is as
before. -/

open Sys2Proof Sys2Proof.Machine

/-! ## Encoding -/

/-- R70, R84 to R87, R95: the decoder gives every instruction back from its word, with every operand at every value,
in every context that selects its row; the two generic rows come back as the particular row of the same word (the
model's choice, assumption log 12). -/
def Obligations.DecodeEncodeAgree : Prop :=
  ∀ (i : Instr) (c : PushContext), i.wellFormed = true → i.isPseudo = false → i.selectedIn c = true →
    ∃ e, encode i = [e] ∧ decode c e = .ok i.particular

/-- R35, R76, R81, R84, R85, R87, R90 (a) and (b): what the decoder accepts is a well-formed instruction. Of a frame, a
read address, a format word and an event code its encoding is exactly what was read. Of a command word its encoding is
a command word with the same bits wherever the row looks: `rst` alone for RESET, else the two enables, the byte where
it is valid and the address and data where the write is enabled. The other bits R84 gives a command word are ignored
(R85) and are encoded as 0 (assumption log 4). -/
def Obligations.DecoderKeepsEveryBitItsRowLooksAt : Prop :=
  ∀ (c : PushContext) (e : Encoded) (i : Instr), decode c e = .ok i →
    i.wellFormed = true ∧
    ((∀ w, e ≠ .command w) → encode i = [e]) ∧
    (∀ w, e = .command w → ∃ v, encode i = [.command v] ∧ cwRst v = cwRst w ∧
      (cwRst w = false →
        cwInValid v = cwInValid w ∧ cwCsrWe v = cwCsrWe w ∧
        (cwInValid w = true → cwInData v = cwInData w) ∧
        (cwCsrWe w = true → cwCsrAddr v = cwCsrAddr w ∧ cwCsrWdata v = cwCsrWdata w)))

/-- R85: the priority of the command word's fields. -/
def Obligations.CommandDecodePriority : Prop :=
  ∀ (c : PushContext) (r : InputRecord),
    (r.rst = true → decode c (.command r.command) = .ok .reset) ∧
    (r.rst = false → r.inValid = false → r.csrWe = false → decode c (.command r.command) = .ok .nop) ∧
    (r.rst = false → r.inValid = false → r.csrWe = true →
      decode c (.command r.command)
        = .ok (if r.csrAddr = 0 then .wrcsrMaxSize r.csrWdata else .wrcsrIgnored r.csrAddr r.csrWdata)) ∧
    (r.rst = false → r.inValid = true → r.csrWe = true →
      decode c (.command r.command) = .ok (.pushWrcsr r.csrAddr r.csrWdata r.inData)) ∧
    (r.rst = false → r.inValid = true → r.csrWe = false →
      decode c (.command r.command) = decodePush c r.inData)

/-- R85: in a state that meets the invariants of R40 every command word decodes, and to a row that the state
selects. -/
def Obligations.EveryCommandWordDecodes : Prop :=
  ∀ (s : State) (w : CommandWord), Inv s →
    ∃ i, decode s.context (.command w) = .ok i ∧ i.selectedIn s.context = true ∧ i.wellFormed = true

/-- R84, R91: words written out bit by bit from the table, for the formats that have an encoding. The numbering of a
table row's bits is the model's (assumption log 4). -/
def Obligations.WrittenWordsDecode : Prop :=
  decodeTableWord 32 0x40000000 = some .reset ∧
  decodeTableWord 32 0x00000000 = some .nop ∧
  decodeTableWord 32 0x10010000 = some (.wrcsrMaxSize 0x0100) ∧
  decodeTableWord 32 0x11FFFF00 = some (.wrcsrIgnored 0x1 0xFFFF) ∧
  decodeTableWord 32 0x30004000 = some (.pushWrcsr 0x0 0x0040 0x00) ∧
  decodeTableWord 32 0x200000AA = some (.pushSeek 0xAA) ∧
  decodeTableWord 8 0x7 = some .rdcsrCrcAcc ∧
  decodeTableWord 16 0x0003 = some (.rdpb 0x0003) ∧
  decode resetContext (.event 2) = .ok .evChecksumMismatch ∧
  decode resetContext (.frame [0xAA, 0x55, 0xAA, 0x55, 0x00, 0x02, 0x87, 0xB7, 0x00, 0x01, 0x00, 0x00, 0x12, 0x34])
    = .ok (.framePositionReport 0x0002 0xB787 0x0000 [0x12, 0x34])

/-! ## The cycle -/

/-- R10, R12, R85: when the command word of the coming cycle decodes to `i`, a step is `i` on the state whose input
record has been taken and whose output ports show the outputs of the state before the edge. -/
def Obligations.StepRunsDecodedInstruction : Prop :=
  ∀ (s : State) (i : Instr), decode s.context (.command s.nextInput.command) = .ok i →
    step s = exec i { s with
      inputs := s.inputs.tail
      out := s.outputs s.nextInput.csrAddr s.nextInput.pbRaddr }

/-- R12, R61 item 1: the outputs of a cycle are a function of the state before its edge, with the flags, the event's
fields, the selected CSR and the selected payload cell on them, whatever the cycle does. -/
def Obligations.OutputsShowTheStateBeforeTheEdge : Prop :=
  ∀ s t : State, step s = .next t →
    t.out.inReady = true ∧ t.out.evValid = s.evValid ∧ t.out.evKind = s.evKind.code ∧ t.out.evSize = s.size ∧
    t.out.evCrc = s.crcRx ∧ t.out.evMsgType = s.msgType ∧ t.out.evFormat = s.format ∧
    t.out.evCrypto.toNat = s.format.toNat % 8 ∧ t.out.evCompress.toNat = s.format.toNat / 16 % 4 ∧
    (t.out.evAck = true ↔ 32768 ≤ s.format.toNat) ∧
    t.out.csrRdata = s.csr s.nextInput.csrAddr ∧ t.out.pbRdata = s.pbRead s.nextInput.pbRaddr.toNat

/-- R40: every cycle keeps the invariants of reachable states, whatever the environment presents. -/
def Obligations.StepKeepsInvariants : Prop :=
  ∀ s t : State, Inv s → step s = .next t → Inv t

/-- R40, R41: the invariants hold of the reset state. -/
def Obligations.ResetMeetsInvariants : Prop := Inv State.reset

/-- R141, R176: no input sequence makes the machine stop: from every state that meets the invariants a run of any
length, over any pending inputs, goes on. -/
def Obligations.NoInputStopsTheMachine : Prop := ∀ s : State, Inv s → RunsOn s

/-- R120: the transitions of ST, by the row of the table. -/
def Obligations.PhaseTransitions : Prop :=
  ∀ s t : State, Inv s → step s = .next t → s.nextInput.rst = false →
    (s.nextInput.inValid = false → t.st = s.st ∧ t.wait = s.wait) ∧
    (s.nextInput.inValid = true →
      (s.st = .seek → candidate s.win s.nextInput.inData ≠ 0xAA55AA55 → t.st = .seek ∧ t.wait = 0) ∧
      (s.st = .seek → candidate s.win s.nextInput.inData = 0xAA55AA55 → t.st = .hdr ∧ t.wait = 8) ∧
      (s.st = .hdr → 2 ≤ s.wait.toNat → t.st = .hdr ∧ t.wait.toNat = s.wait.toNat - 1) ∧
      (s.st = .hdr → s.wait = 1 → s.maxSize.toNat < s.size.toNat ∨ s.size = 0 → t.st = .seek ∧ t.wait = 0) ∧
      (s.st = .hdr → s.wait = 1 → 0 < s.size.toNat → s.size.toNat ≤ s.maxSize.toNat → t.st = .pay ∧ t.wait = s.size) ∧
      (s.st = .pay → 2 ≤ s.wait.toNat → t.st = .pay ∧ t.wait.toNat = s.wait.toNat - 1) ∧
      (s.st = .pay → s.wait = 1 → t.st = .seek ∧ t.wait = 0))

/-- R31, R180: two events are never raised by consecutive steps. -/
def Obligations.EventsAreNeverConsecutive : Prop :=
  ∀ s t : State, Inv s → s.evValid = true → step s = .next t → t.evValid = false

/-- R170, R178 item 1: only a cycle with a byte and without a reset raises. -/
def Obligations.OnlyPushRaises : Prop :=
  ∀ s t : State, step s = .next t → t.evValid = true →
    s.nextInput.inValid = true ∧ s.nextInput.rst = false

/-- R31, R171: a step either leaves EV_VALID 0 and reports nothing, or sets it and reports one event, whose value is
what the outputs of the next cycle show. -/
def Obligations.EachEventIsReportedOnce : Prop :=
  ∀ s t : State, step s = .next t →
    (t.evValid = false ∧ t.events = s.events) ∨
    (t.evValid = true ∧ t.events = s.events ++ [t.eventValue t.evKind])

/-- R43, R11: the parameters never change and a cycle takes exactly one input record. -/
def Obligations.CycleTakesOneInputAndKeepsParameters : Prop :=
  ∀ s t : State, step s = .next t → t.cfg = s.cfg ∧ t.inputs = s.inputs.tail

/-- R57: the payload buffer is written by PUSH.PAY alone, one cell, at SIZE - WAIT. -/
def Obligations.PayloadBufferWrittenByPayloadBytesOnly : Prop :=
  ∀ s t : State, step s = .next t → ∀ a : Nat,
    t.pbRead a
      = if s.nextInput.rst = false ∧ s.nextInput.inValid = true ∧ s.st = .pay ∧ a = (s.size - s.wait).toNat
        then s.nextInput.inData else s.pbRead a

/-- R30, R61 item 5, R150, R153: MAX_SIZE after a cycle. -/
def Obligations.MaxSizeWrittenByWrcsrAndResetOnly : Prop :=
  ∀ s t : State, step s = .next t →
    t.maxSize.toNat
      = if s.nextInput.rst = true then s.cfg.maxSizeCeiling.toNat
        else if s.nextInput.csrWe = true ∧ s.nextInput.csrAddr = 0
        then min s.nextInput.csrWdata.toNat s.cfg.maxSizeCeiling.toNat
        else s.maxSize.toNat

/-! ## Control operations -/

/-- R150, R41: RESET writes every register its reset value and keeps the payload buffer, in every state. -/
def Obligations.ResetWritesResetValues : Prop :=
  ∀ s : State, exec .reset s = .next { s with
    st := .seek, win := 0, seekCnt := 0, wait := 0, size := 0, crcRx := 0, msgType := 0, format := 0
    crcAcc := 0xFFFF, maxSize := s.cfg.maxSizeCeiling, evValid := false, evKind := .frameReady }

/-- R41: the registers right after reset. -/
def Obligations.ResetStateRegisters : Prop :=
  State.reset.st = .seek ∧ State.reset.win = 0 ∧ State.reset.seekCnt = 0 ∧ State.reset.wait = 0 ∧
  State.reset.size = 0 ∧ State.reset.crcRx = 0 ∧ State.reset.msgType = 0 ∧ State.reset.format = 0 ∧
  State.reset.crcAcc = 0xFFFF ∧ State.reset.maxSize = State.reset.cfg.maxSizeCeiling ∧
  State.reset.evValid = false ∧ State.reset.evKind = .frameReady

/-- R151: NOP ends the event strobe and changes nothing else. -/
def Obligations.NopOnlyEndsTheStrobe : Prop :=
  ∀ s : State, exec .nop s = .next { s with evValid := false }

/-- R153: WRCSR to MAX_SIZE stores the value clamped to the ceiling; to any other address it changes no register. -/
def Obligations.WrcsrClampsOrIsIgnored : Prop :=
  (∀ (v : Half) (s : State), exec (.wrcsrMaxSize v) s
    = .next { s with
        maxSize := BitVec.ofNat 16 (min v.toNat s.cfg.maxSizeCeiling.toNat), evValid := false }) ∧
  (∀ (a : CsrAddr) (v : Half) (s : State), a ≠ 0 → exec (.wrcsrIgnored a v) s = .next { s with evValid := false })

/-- R154: PUSH together with WRCSR does what the selected PUSH row does alone, reading the old MAX_SIZE, and then
MAX_SIZE holds what WRCSR writes. -/
def Obligations.PushWithWrcsrReadsTheOldCeiling : Prop :=
  ∀ (a : CsrAddr) (v : Half) (b : Byte) (s : State), Inv s →
    ∃ i t, decodePush s.context b = .ok i ∧ exec i s = .next t ∧ t.maxSize = s.maxSize ∧
      exec (.pushWrcsr a v b) s = .next { t with
        maxSize := if a = 0 then BitVec.ofNat 16 (min v.toNat s.cfg.maxSizeCeiling.toNat) else s.maxSize }

/-! ## PUSH -/

/-- R122: a byte that completes no sentinel: the window shifts; the count goes up, or restarts at 3 with DesyncNoise
when it would pass the ceiling. -/
def Obligations.SeekingByteWithoutMatch : Prop :=
  ∀ (b : Byte) (s : State), s.st = .seek → candidate s.win b ≠ 0xAA55AA55 →
    exec (.pushSeek b) s = .next (if s.seekCnt.toNat + 1 > s.cfg.scanCeiling.toNat then
      { s with win := s.win.extractLsb' 0 16 ++ b, seekCnt := 3, evValid := true, evKind := .desyncNoise
               events := s.events ++ [.frameRejected .desyncNoise] }
    else { s with win := s.win.extractLsb' 0 16 ++ b, seekCnt := s.seekCnt + 1, evValid := false })

/-- R123: the byte that completes the sentinel. -/
def Obligations.SeekingByteWithMatch : Prop :=
  ∀ (b : Byte) (s : State), s.st = .seek → s.win = 0xAA55AA → b = 0x55 →
    exec (.pushSeekMatch b) s = .next { s with
      st := .hdr, wait := 8, win := 0, seekCnt := 0, crcAcc := 0xFFFF, evValid := false }

/-- R125, R126, R127, R128: the size and crc bytes, size high byte first, crc low byte first; not covered. -/
def Obligations.HeaderSizeAndCrcBytes : Prop :=
  ∀ (b : Byte) (s : State), s.st = .hdr →
    (s.wait = 8 → exec (.pushHdrSizeHi b) s
      = .next { s with size := b ++ s.size.extractLsb' 0 8, wait := 7, evValid := false }) ∧
    (s.wait = 7 → exec (.pushHdrSizeLo b) s
      = .next { s with size := s.size.extractLsb' 8 8 ++ b, wait := 6, evValid := false }) ∧
    (s.wait = 6 → exec (.pushHdrCrcLo b) s
      = .next { s with crcRx := s.crcRx.extractLsb' 8 8 ++ b, wait := 5, evValid := false }) ∧
    (s.wait = 5 → exec (.pushHdrCrcHi b) s
      = .next { s with crcRx := b ++ s.crcRx.extractLsb' 0 8, wait := 4, evValid := false })

/-- R129, R130, R131: the message type's two bytes and the format's first, each covered by the running checksum. -/
def Obligations.HeaderTypeAndFormatHighBytes : Prop :=
  ∀ (b : Byte) (s : State), s.st = .hdr →
    (s.wait = 4 → exec (.pushHdrTypeHi b) s
      = .next { s with msgType := b ++ s.msgType.extractLsb' 0 8, crcAcc := crc16Update s.crcAcc b, wait := 3
                       evValid := false }) ∧
    (s.wait = 3 → exec (.pushHdrTypeLo b) s
      = .next { s with msgType := s.msgType.extractLsb' 8 8 ++ b, crcAcc := crc16Update s.crcAcc b, wait := 2
                       evValid := false }) ∧
    (s.wait = 2 → exec (.pushHdrFmtHi b) s
      = .next { s with format := b ++ s.format.extractLsb' 0 8, crcAcc := crc16Update s.crcAcc b, wait := 1
                       evValid := false })

/-- R132, R134: header index 11: the size bound, the empty payload, or the payload phase. -/
def Obligations.HeaderLastByte : Prop :=
  ∀ (b : Byte) (s : State), s.st = .hdr → s.wait = 1 →
    (s.size.toNat > s.maxSize.toNat → exec (.pushHdrFmtLo b) s
      = .next { s with
          format := s.format.extractLsb' 8 8 ++ b, crcAcc := crc16Update s.crcAcc b
          st := .seek, win := 0, seekCnt := 0, wait := 0, evValid := true, evKind := .sizeOutOfBounds
          events := s.events ++ [.frameRejected .sizeOutOfBounds] }) ∧
    (s.size = 0 → crc16Update s.crcAcc b = s.crcRx → exec (.pushHdrFmtLo b) s
      = .next { s with
          format := s.format.extractLsb' 8 8 ++ b, crcAcc := crc16Update s.crcAcc b
          st := .seek, win := 0, seekCnt := 0, wait := 0, evValid := true, evKind := .frameReady
          events := s.events ++ [.frameReady
            { header := 0xAA55AA55, size := 0, crc := s.crcRx, messageType := s.msgType
              format := s.format.extractLsb' 8 8 ++ b, data := [] }] }) ∧
    (s.size = 0 → crc16Update s.crcAcc b ≠ s.crcRx → exec (.pushHdrFmtLo b) s
      = .next { s with
          format := s.format.extractLsb' 8 8 ++ b, crcAcc := crc16Update s.crcAcc b
          st := .seek, win := 0, seekCnt := 0, wait := 0, evValid := true, evKind := .checksumMismatch
          events := s.events ++ [.frameRejected .checksumMismatch] }) ∧
    (0 < s.size.toNat → s.size.toNat ≤ s.maxSize.toNat → exec (.pushHdrFmtLo b) s
      = .next { s with
          format := s.format.extractLsb' 8 8 ++ b, crcAcc := crc16Update s.crcAcc b
          st := .pay, wait := s.size, evValid := false })

/-- R133: a payload byte before the last: one cell is written, every other cell reads as before. -/
def Obligations.PayloadByteBeforeTheLast : Prop :=
  ∀ (b : Byte) (s : State), s.st = .pay → 2 ≤ s.wait.toNat → s.wait.toNat ≤ s.size.toNat →
    s.size.toNat ≤ s.cfg.maxSizeCeiling.toNat →
    ∃ m : Memory, exec (.pushPay b) s
        = .next { s with pbuf := m, crcAcc := crc16Update s.crcAcc b, wait := s.wait - 1, evValid := false } ∧
      ∀ a : Nat, Memory.lookup m a
        = if a = (s.size - s.wait).toNat then some b else Memory.lookup s.pbuf a

/-- R133, R134: the last payload byte: it is stored whatever the verdict, and the frame ends with FrameReady or
ChecksumMismatch. -/
def Obligations.LastPayloadByte : Prop :=
  ∀ (b : Byte) (s : State), s.st = .pay → s.wait = 1 → 1 ≤ s.size.toNat →
    s.size.toNat ≤ s.cfg.maxSizeCeiling.toNat →
    ∃ (m : Memory) (e : FrameEvent), exec (.pushPay b) s
        = .next { s with
            pbuf := m, crcAcc := crc16Update s.crcAcc b
            st := .seek, win := 0, seekCnt := 0, wait := 0, evValid := true
            evKind := if crc16Update s.crcAcc b = s.crcRx then .frameReady else .checksumMismatch
            events := s.events ++ [e] } ∧
      (∀ a : Nat, Memory.lookup m a = if a = s.size.toNat - 1 then some b else Memory.lookup s.pbuf a) ∧
      (crc16Update s.crcAcc b ≠ s.crcRx → e = .frameRejected .checksumMismatch) ∧
      (crc16Update s.crcAcc b = s.crcRx → ∃ d : List Byte, e = .frameReady
        { header := 0xAA55AA55, size := s.size, crc := s.crcRx, messageType := s.msgType, format := s.format, data := d } ∧
        d.length = s.size.toNat ∧ (∀ k, k + 1 < s.size.toNat → d[k]? = some (s.pbRead k)) ∧
        d[s.size.toNat - 1]? = some b)

/-- The model's choice (assumption log 7): a row of PUSH is refused, with no next state, in every state outside the
condition of the row's own rule. For the two rows of Seeking that condition is on ST and `{WIN, b}` (R122, R123) and
does not name WAIT: R86's table lists those rows at WAIT 0, the only WAIT of a reachable Seeking (R40), and with
another WAIT they run and are not refused. For the eight rows of HeaderFound it is ST and WAIT (R125 to R132). For
PUSH.PAY it is `1 <= WAIT <= SIZE` (R133): R86's table and the decoder select PUSH.PAY for every WAIT of at least 1,
and with WAIT above SIZE the row is refused too. -/
def Obligations.UnselectedPushRowsAreRefused : Prop :=
  ∀ (b : Byte) (s : State),
    (¬ (s.st = .seek ∧ candidate s.win b ≠ sentinel) → exec (.pushSeek b) s = .refused .pushRowNotSelected) ∧
    (¬ (s.st = .seek ∧ candidate s.win b = sentinel) → exec (.pushSeekMatch b) s = .refused .pushRowNotSelected) ∧
    (¬ (s.st = .hdr ∧ s.wait = 8) → exec (.pushHdrSizeHi b) s = .refused .pushRowNotSelected) ∧
    (¬ (s.st = .hdr ∧ s.wait = 7) → exec (.pushHdrSizeLo b) s = .refused .pushRowNotSelected) ∧
    (¬ (s.st = .hdr ∧ s.wait = 6) → exec (.pushHdrCrcLo b) s = .refused .pushRowNotSelected) ∧
    (¬ (s.st = .hdr ∧ s.wait = 5) → exec (.pushHdrCrcHi b) s = .refused .pushRowNotSelected) ∧
    (¬ (s.st = .hdr ∧ s.wait = 4) → exec (.pushHdrTypeHi b) s = .refused .pushRowNotSelected) ∧
    (¬ (s.st = .hdr ∧ s.wait = 3) → exec (.pushHdrTypeLo b) s = .refused .pushRowNotSelected) ∧
    (¬ (s.st = .hdr ∧ s.wait = 2) → exec (.pushHdrFmtHi b) s = .refused .pushRowNotSelected) ∧
    (¬ (s.st = .hdr ∧ s.wait = 1) → exec (.pushHdrFmtLo b) s = .refused .pushRowNotSelected) ∧
    (¬ (s.st = .pay ∧ 1 ≤ s.wait.toNat ∧ s.wait.toNat ≤ s.size.toNat) →
      exec (.pushPay b) s = .refused .pushRowNotSelected)

/-- The model's choice (assumption log 7), resting on R40, R57, R86 and R133: in HeaderFound and AwaitingPayload a byte with no
row is refused, and a payload byte whose cell does not exist faults. -/
def Obligations.PushOutsideReachableStatesStops : Prop :=
  (∀ (b : Byte) (bs : List Byte) (s : State), s.st = .hdr → s.wait.toNat = 0 ∨ 8 < s.wait.toNat →
    exec (.feed (b :: bs)) s = .refused .pushUndefined) ∧
  (∀ (b : Byte) (bs : List Byte) (s : State), s.st = .pay → s.wait.toNat = 0 ∨ s.size.toNat < s.wait.toNat →
    exec (.feed (b :: bs)) s = .refused .pushUndefined) ∧
  (∀ (b : Byte) (s : State), s.st = .pay → 1 ≤ s.wait.toNat → s.wait.toNat ≤ s.size.toNat →
    s.cfg.maxSizeCeiling.toNat ≤ s.size.toNat - s.wait.toNat →
    exec (.pushPay b) s = .fault (.pbufWriteOutOfRange (s.size.toNat - s.wait.toNat)))

/-- R214: the payload phase never looks at MAX_SIZE: lowering or raising it in mid-frame changes nothing a payload
byte does. -/
def Obligations.PayloadIgnoresTheCeiling : Prop :=
  ∀ (b : Byte) (m : Half) (s t : State), exec (.pushPay b) s = .next t →
    exec (.pushPay b) { s with maxSize := m } = .next { t with maxSize := m }

/-! ## Reads -/

/-- R155, R35, R36, R37: what each CSR address shows; nothing but the read port changes. -/
def Obligations.CsrReadsShowTheMap : Prop :=
  ∀ s : State,
    exec .rdcsrMaxSize s = .next { s with out := { s.out with csrRdata := s.maxSize } } ∧
    exec .rdcsrStatus s = .next { s with out := { s.out with
      csrRdata := BitVec.ofNat 16 (s.st.code.toNat + 4 * s.evValid.toNat + 8 * s.evKind.code.toNat) } } ∧
    exec .rdcsrSize s = .next { s with out := { s.out with csrRdata := s.size } } ∧
    exec .rdcsrCrcRx s = .next { s with out := { s.out with csrRdata := s.crcRx } } ∧
    exec .rdcsrMsgType s = .next { s with out := { s.out with csrRdata := s.msgType } } ∧
    exec .rdcsrFormat s = .next { s with out := { s.out with csrRdata := s.format } } ∧
    exec .rdcsrWait s = .next { s with out := { s.out with csrRdata := s.wait } } ∧
    exec .rdcsrCrcAcc s = .next { s with out := { s.out with csrRdata := s.crcAcc } } ∧
    exec .rdcsrSeekCnt s = .next { s with out := { s.out with csrRdata := s.seekCnt } } ∧
    exec .rdcsrWinLo s = .next { s with out := { s.out with csrRdata := BitVec.ofNat 16 (s.win.toNat % 65536) } } ∧
    exec .rdcsrWinHi s = .next { s with out := { s.out with csrRdata := BitVec.ofNat 16 (s.win.toNat / 65536) } } ∧
    (∀ a : CsrAddr, 0xB ≤ a.toNat →
      exec (.rdcsrReserved a) s = .next { s with out := { s.out with csrRdata := 0 } }) ∧
    (∀ a : CsrAddr, ∃ v : Half, exec (.rdcsr a) s = .next { s with out := { s.out with csrRdata := v } } ∧
      exec (.rdcsr a) s = exec (decodeCsrRead a) s)

/-- R156, R58: what a payload address shows: the last byte stored there, 0x00 outside the buffer; for a cell nothing
has written, the same free byte at every read (U5; the form of that freedom is the model's, assumption log 3). -/
def Obligations.PayloadReadShowsTheCell : Prop :=
  ∀ (p : Half) (s : State),
    (s.cfg.maxSizeCeiling.toNat ≤ p.toNat → exec (.rdpb p) s = .next { s with out := { s.out with pbRdata := 0 } }) ∧
    (∀ v, p.toNat < s.cfg.maxSizeCeiling.toNat → Memory.lookup s.pbuf p.toNat = some v →
      exec (.rdpb p) s = .next { s with out := { s.out with pbRdata := v } }) ∧
    (p.toNat < s.cfg.maxSizeCeiling.toNat → Memory.lookup s.pbuf p.toNat = none →
      exec (.rdpb p) s = .next { s with out := { s.out with pbRdata := Config.pbufPowerUp p.toNat } })

/-! ## The Frame Model -/

/-- R103, R104: the checksum's worked examples. -/
def Obligations.CrcExamples : Prop :=
  crc16Update 0xFFFF 0x00 = 0xE1F0 ∧ crc16Update 0xFFFF 0xFF = 0xFF00 ∧ crc16Update 0xFFFF 0x41 = 0xB915 ∧
  crc16Update 0x0000 0x01 = 0x1021 ∧ crc16Update 0x0000 0x80 = 0x9188 ∧ crc16 [] = 0xFFFF ∧
  crc16 [0x31, 0x32, 0x33, 0x34, 0x35, 0x36, 0x37, 0x38, 0x39] = 0x29B1 ∧
  crc16 [0x00, 0x01, 0x00, 0x00, 0x12, 0x34] = 0xB787 ∧
  encodeFrame 0x0001 0x0000 [0x12, 0x34]
    = [0xAA, 0x55, 0xAA, 0x55, 0x00, 0x02, 0x87, 0xB7, 0x00, 0x01, 0x00, 0x00, 0x12, 0x34]

/-- R105: an error confined to one byte of the covered bytes always changes the checksum (a single flipped bit is
such an error). -/
def Obligations.OneByteErrorChangesTheChecksum : Prop :=
  ∀ (before after : List Byte) (b c : Byte), b ≠ c →
    crc16 (before ++ b :: after) ≠ crc16 (before ++ c :: after)

/-- R101, R76: the fields decodeFormat extracts; no register changes. That FORMAT16 shows them on the outputs is the
model's reading (assumption log 9). -/
def Obligations.FormatWordExtraction : Prop :=
  ∀ (f : Half) (s : State), exec (.format16 f) s = .next { s with out := { s.out with
    evFormat := f
    evCrypto := BitVec.ofNat 3 (f.toNat % 8)
    evCompress := BitVec.ofNat 2 (f.toNat / 16 % 4)
    evAck := decide (32768 ≤ f.toNat) } }

/-- R100, R132, R134: the verdict the hardware reaches over a whole frame is validate's: a frame pushed from a fresh
Seeking raises exactly one event, and it is the one validate names, for every size, ceiling and checksum. That a frame
row, used as an instruction, is the run of its bytes is the model's reading (assumption log 11). In the oversized case
the row is taken with an empty payload, which for a size above MAX_SIZE is an ill-formed term: by the same log entry it
stands for the twelve bytes of the fixed region, after which R132 rejects the frame and the sender's payload is no
longer part of it. -/
def Obligations.HardwareAgreesWithValidate : Prop :=
  ∀ (size crc t f : Half) (data : List Byte) (s : State), s.FreshSeek → s.cfg.Legal →
    s.maxSize.toNat ≤ s.cfg.maxSizeCeiling.toNat → data.length = size.toNat →
    ∃ u, exec (.frame size crc t f (if s.maxSize.toNat < size.toNat then [] else data)) s = .next u ∧
      u.FreshSeek ∧ u.evValid = true ∧
      u.events = s.events ++ [if s.maxSize.toNat < size.toNat then .frameRejected .sizeOutOfBounds
        else frameEvent size crc t f data] ∧
      (u.evKind = .sizeOutOfBounds ↔
        validate s.maxSize 0xAA55AA55 size crc (crc16 (coveredBytes t f data)) = .sizeOutOfBounds) ∧
      (u.evKind = .checksumMismatch ↔
        validate s.maxSize 0xAA55AA55 size crc (crc16 (coveredBytes t f data)) = .checksumMismatch) ∧
      (u.evKind = .frameReady ↔
        validate s.maxSize 0xAA55AA55 size crc (crc16 (coveredBytes t f data)) = .valid)

/-! ## Frames and streams

A frame row or a pseudo-operation, used as an instruction, is the run of PUSH cycles that it expands to (R89, R92 to
R94; assumption log 11). -/

/-- R109, R132 to R134, R137, R172, R174, R82: a frame of any row, within the size bound, pushed from a fresh Seeking:
exactly one event, at its last byte, FrameReady with the whole frame when the checksum matches and ChecksumMismatch
when it does not; the fields are in the holding registers, the payload is in the buffer and every other cell reads as
before; the block is back in a fresh Seeking. -/
def Obligations.FrameWithinBoundsGivesItsEvent : Prop :=
  ∀ (i : Instr) (size crc t f : Half) (data : List Byte) (s : State),
    frameFields i = some (size, crc, t, f, data) → i.wellFormed = true → s.FreshSeek → s.cfg.Legal →
    size.toNat ≤ s.maxSize.toNat → s.maxSize.toNat ≤ s.cfg.maxSizeCeiling.toNat →
    ∃ m : Memory, exec i s = .next { s with
        size := size, crcRx := crc, msgType := t, format := f, crcAcc := crc16 (coveredBytes t f data), pbuf := m
        evValid := true
        evKind := if crc = crc16 (coveredBytes t f data) then .frameReady else .checksumMismatch
        events := s.events ++ [frameEvent size crc t f data] } ∧
      ∀ a : Nat, Memory.lookup m a = if a < size.toNat then data[a]? else Memory.lookup s.pbuf a

/-- R140, R173, R132 corner case (c): a frame of any row, larger than the size bound: exactly one SizeOutOfBounds, at
the end of its fixed region; no payload byte is stored; the block is in a fresh Seeking and the sender's payload is
scanned as noise from there. -/
def Obligations.OversizedFrameIsRejected : Prop :=
  ∀ (i : Instr) (size crc t f : Half) (data : List Byte) (s : State),
    frameFields i = some (size, crc, t, f, data) → s.FreshSeek → s.cfg.Legal → s.maxSize.toNat < size.toNat →
    exec i s = exec (.feed data) { s with
      size := size, crcRx := crc, msgType := t, format := f, crcAcc := crc16 (coveredBytes t f [])
      evValid := true, evKind := .sizeOutOfBounds
      events := s.events ++ [.frameRejected .sizeOutOfBounds] }

/-- R109: the round trip, decode(encode(T, F, d)) from RESET: exactly one event, FrameReady, carrying the frame. -/
def Obligations.EncodedFrameRoundTrip : Prop :=
  ∀ (t f : Half) (d : List Byte) (s : State), s.cfg.Legal → d.length ≤ s.cfg.maxSizeCeiling.toNat →
    ∃ r u, exec .reset s = .next r ∧ exec (.framePseudo t f d) r = .next u ∧
      u.events = s.events ++ [.frameReady
        { header := 0xAA55AA55, size := BitVec.ofNat 16 d.length, crc := crc16 (coveredBytes t f d)
          messageType := t, format := f, data := d }] ∧
      u.FreshSeek ∧ u.evValid = true ∧ u.evKind = .frameReady ∧
      (∀ a : Nat, a < d.length → d[a]? = some (u.pbRead a)) ∧
      (∀ a : Nat, d.length ≤ a → u.pbRead a = s.pbRead a)

/-- R94, R134: the pseudo-operation with a forced checksum is a frame with that checksum: FrameReady when it is the
right one, ChecksumMismatch otherwise. -/
def Obligations.ForcedChecksumFrame : Prop :=
  ∀ (t f crc : Half) (d : List Byte) (s : State), s.FreshSeek → s.cfg.Legal →
    d.length ≤ s.maxSize.toNat → s.maxSize.toNat ≤ s.cfg.maxSizeCeiling.toNat →
    ∃ u, exec (.frameForced t f d crc) s = .next u ∧ u.FreshSeek ∧ u.evValid = true ∧
      u.events = s.events ++ [frameEvent (BitVec.ofNat 16 d.length) crc t f d] ∧
      (crc = crc16 (coveredBytes t f d) ↔ u.evKind = .frameReady) ∧
      (crc ≠ crc16 (coveredBytes t f d) ↔ u.evKind = .checksumMismatch)

/-- R105: a frame one of whose covered bytes was damaged on the way gives exactly one event, ChecksumMismatch. -/
def Obligations.DamagedFrameGivesChecksumMismatch : Prop :=
  ∀ (t f t' f' : Half) (d d' before after : List Byte) (b c : Byte) (s : State),
    s.FreshSeek → s.cfg.Legal → d.length = d'.length → d.length ≤ s.maxSize.toNat →
    s.maxSize.toNat ≤ s.cfg.maxSizeCeiling.toNat → b ≠ c →
    coveredBytes t f d = before ++ b :: after → coveredBytes t' f' d' = before ++ c :: after →
    ∃ u, exec (.frameForced t' f' d' (crc16 (coveredBytes t f d))) s = .next u ∧ u.FreshSeek ∧
      u.events = s.events ++ [.frameRejected .checksumMismatch]

/-- R141, R93: bytes never stop the block: FEED completes from every state that meets the invariants, keeps them, and
writes neither MAX_SIZE nor a parameter, a pending input or an output. -/
def Obligations.FeedCompletes : Prop :=
  ∀ (bytes : List Byte) (s : State), Inv s →
    ∃ t, exec (.feed bytes) s = .next t ∧ Inv t ∧ t.maxSize = s.maxSize ∧ t.cfg = s.cfg ∧ t.inputs = s.inputs ∧
      t.out = s.out ∧ s.events <+: t.events

/-- R93: two consecutive FEED lines are the same as one FEED of the concatenation. -/
def Obligations.FeedOfConcatenation : Prop :=
  ∀ (xs ys : List Byte) (s t : State), exec (.feed xs) s = .next t →
    exec (.feed (xs ++ ys)) s = exec (.feed ys) t

/-- R92, R151: IDLE n completes in every state; with n at least 1 it ends the strobe, and it changes nothing else. -/
def Obligations.IdleOnlyEndsTheStrobe : Prop :=
  ∀ (n : Nat) (s : State), exec (.idle n) s = .next { s with evValid := s.evValid && decide (n = 0) }

/-- R138, R13, R93: chunk-boundary independence: however quiet cycles lie between the bytes, and whatever is read
meanwhile, a run of the cycles gives the state that FEED of the bytes gives, but for EV_VALID and the last outputs. -/
def Obligations.CyclesRunAsFeed : Prop :=
  ∀ (rs rest : List InputRecord) (s : State), Inv s → (∀ r ∈ rs, plainCycle r = true) →
    s.inputs = rs ++ rest →
    ∃ (t : State) (o : Output) (v : Bool), exec (.feed (bytesOf rs)) s = .next t ∧
      Host.Core.run Sys2Proof.core rs.length s = .next { t with inputs := rest, out := o, evValid := v }

/-- R122, R22, R40 item 6: noise fed to a fresh Seeking, no sentinel in it: after up to SCAN_CEILING bytes nothing is
reported, SEEK_CNT counts them and WIN holds the last three; the block stays in Seeking. -/
def Obligations.QuietNoiseFillsTheWindow : Prop :=
  ∀ (noise : List Byte) (s : State), s.FreshSeek → s.cfg.Legal → hasSentinel noise = false →
    noise.length ≤ s.cfg.scanCeiling.toNat →
    ∃ t, exec (.feed noise) s = .next t ∧ t.st = .seek ∧ t.events = s.events ∧
      t.seekCnt.toNat = noise.length ∧
      t.win = noise.foldl (fun w b => BitVec.setWidth 24 (w ++ b)) (0 : Window)

/-- R122 corner case (b), R175: under noise without a sentinel, DesyncNoise comes first at byte SCAN_CEILING + 1 and
then every SCAN_CEILING - 2 bytes, and no other event comes. -/
def Obligations.DesyncNoiseRecurs : Prop :=
  ∀ (noise : List Byte) (s : State), s.FreshSeek → s.cfg.Legal → hasSentinel noise = false →
    ∃ t, exec (.feed noise) s = .next t ∧ t.st = .seek ∧
      t.events = s.events ++ List.replicate
        (if noise.length ≤ s.cfg.scanCeiling.toNat then 0
         else 1 + (noise.length - s.cfg.scanCeiling.toNat - 1) / (s.cfg.scanCeiling.toNat - 2))
        (.frameRejected .desyncNoise)

/-- R139: recovery from noise of any length: exactly one FrameReady, for the frame, at its last byte, before it
nothing but DesyncNoise, and not even that when the noise and three bytes fit under the scan ceiling. -/
def Obligations.RecoveryFromNoise : Prop :=
  ∀ (noise : List Byte) (t f : Half) (d : List Byte) (s : State), s.FreshSeek → s.cfg.Legal →
    d.length ≤ s.maxSize.toNat → s.maxSize.toNat ≤ s.cfg.maxSizeCeiling.toNat →
    hasSentinel (noise ++ [0xAA, 0x55, 0xAA]) = false →
    ∃ (u : State) (n : Nat), exec (.feed (noise ++ encodeFrame t f d)) s = .next u ∧ u.FreshSeek ∧
      u.evValid = true ∧ u.evKind = .frameReady ∧
      u.events = s.events ++ List.replicate n (.frameRejected .desyncNoise) ++ [.frameReady
        { header := 0xAA55AA55, size := BitVec.ofNat 16 d.length, crc := crc16 (coveredBytes t f d)
          messageType := t, format := f, data := d }] ∧
      (noise.length + 3 ≤ s.cfg.scanCeiling.toNat → n = 0)

/-- R211 (b): after an event that ends a frame, payload cell i keeps its byte for the next 12 + i pushes. -/
def Obligations.PayloadCellLifetime : Prop :=
  ∀ (bytes : List Byte) (k : Nat) (s t : State), Inv s → s.FreshSeek → bytes.length ≤ 12 + k →
    exec (.feed bytes) s = .next t → t.pbRead k = s.pbRead k

/-- R212: after an event that ends a frame the header fields keep their values until the 5th (SIZE), 7th (CRC_RX),
9th (MSGTYPE) and 11th (FORMAT) push. -/
def Obligations.HeaderFieldLifetime : Prop :=
  ∀ (bytes : List Byte) (s t : State), Inv s → s.FreshSeek → exec (.feed bytes) s = .next t →
    (bytes.length ≤ 4 → t.size = s.size) ∧ (bytes.length ≤ 6 → t.crcRx = s.crcRx) ∧
    (bytes.length ≤ 8 → t.msgType = s.msgType) ∧ (bytes.length ≤ 10 → t.format = s.format)

/-- R180: after an event the next one takes at least min(SCAN_CEILING - 2, 9) pushes. -/
def Obligations.MinimumPushesBetweenEvents : Prop :=
  ∀ (bytes : List Byte) (s t : State), Inv s → s.evValid = true →
    bytes.length < min (s.cfg.scanCeiling.toNat - 2) 9 → exec (.feed bytes) s = .next t → t.events = s.events

/-! ## Events -/

/-- R170, R171, R179: taking an event: the flags, the return to Seeking (for DesyncNoise the count restarting at 3),
one event reported; the holding registers, the checksum and the buffer stay. That an event row, used as an
instruction, is this operation is the model's reading (assumption log 10). -/
def Obligations.TakingAnEvent : Prop :=
  ∀ s : State,
    exec .evFrameReady s = .next { s with
      st := .seek, win := 0, seekCnt := 0, wait := 0, evValid := true, evKind := .frameReady
      events := s.events ++ [.frameReady
        { header := 0xAA55AA55, size := s.size, crc := s.crcRx, messageType := s.msgType, format := s.format
          data := (List.range s.size.toNat).map s.pbRead }] } ∧
    exec .evSizeOutOfBounds s = .next { s with
      st := .seek, win := 0, seekCnt := 0, wait := 0, evValid := true, evKind := .sizeOutOfBounds
      events := s.events ++ [.frameRejected .sizeOutOfBounds] } ∧
    exec .evChecksumMismatch s = .next { s with
      st := .seek, win := 0, seekCnt := 0, wait := 0, evValid := true, evKind := .checksumMismatch
      events := s.events ++ [.frameRejected .checksumMismatch] } ∧
    exec .evDesyncNoise s = .next { s with
      seekCnt := 3, evValid := true, evKind := .desyncNoise
      events := s.events ++ [.frameRejected .desyncNoise] }
end

