-- ==== Sys2Proof/Laws/Ports.lean ====
section
/-! SUPPORT. The bit fields: what packing and slicing do to the numbers the words stand for, and the decoding of a
cycle (spec/30_encoding.md R83 to R86). -/

namespace Sys2Proof.Machine

/-- The number a concatenation stands for (R15). -/
theorem append_toNat {n m : Nat} (x : BitVec n) (y : BitVec m) : (x ++ y).toNat = x.toNat * 2 ^ m + y.toNat := by
  rw [BitVec.toNat_append, Nat.shiftLeft_eq, Nat.mul_comm, ← Nat.two_pow_add_eq_or_of_lt y.isLt]

/-- The command word as a number: each field at its place (R84). -/
theorem packCommand_toNat (x y z : Bool) (a : CsrAddr) (v : Half) (b : Byte) :
    (packCommand x y z a v b).toNat
      = x.toNat * 2 ^ 30 + y.toNat * 2 ^ 29 + z.toNat * 2 ^ 28 + a.toNat * 2 ^ 24 + v.toNat * 2 ^ 8 + b.toNat := by
  show (bit1 x ++ (bit1 y ++ (bit1 z ++ (a ++ (v ++ b))))).toNat = _
  rw [append_toNat, append_toNat, append_toNat, append_toNat, append_toNat]
  simp only [bit1, BitVec.toNat_ofBool]
  omega

theorem getLsbD_eq_div (w : CommandWord) (k : Nat) : w.getLsbD k = decide (w.toNat / 2 ^ k % 2 = 1) := by
  rw [BitVec.getLsbD, Nat.testBit_eq_decide_div_mod_eq]

@[simp] theorem cwRst_packCommand (x y z : Bool) (a : CsrAddr) (v : Half) (b : Byte) :
    cwRst (packCommand x y z a v b) = x := by
  have := a.isLt; have := v.isLt; have := b.isLt
  rw [cwRst, getLsbD_eq_div, packCommand_toNat]
  cases x <;> cases y <;> cases z <;> simp <;> omega

@[simp] theorem cwInValid_packCommand (x y z : Bool) (a : CsrAddr) (v : Half) (b : Byte) :
    cwInValid (packCommand x y z a v b) = y := by
  have := a.isLt; have := v.isLt; have := b.isLt
  rw [cwInValid, getLsbD_eq_div, packCommand_toNat]
  cases x <;> cases y <;> cases z <;> simp <;> omega

@[simp] theorem cwCsrWe_packCommand (x y z : Bool) (a : CsrAddr) (v : Half) (b : Byte) :
    cwCsrWe (packCommand x y z a v b) = z := by
  have := a.isLt; have := v.isLt; have := b.isLt
  rw [cwCsrWe, getLsbD_eq_div, packCommand_toNat]
  cases x <;> cases y <;> cases z <;> simp <;> omega

@[simp] theorem cwCsrAddr_packCommand (x y z : Bool) (a : CsrAddr) (v : Half) (b : Byte) :
    cwCsrAddr (packCommand x y z a v b) = a := by
  have := a.isLt; have := v.isLt; have := b.isLt
  apply BitVec.eq_of_toNat_eq
  rw [cwCsrAddr, BitVec.extractLsb'_toNat, packCommand_toNat, Nat.shiftRight_eq_div_pow]
  cases x <;> cases y <;> cases z <;> simp <;> omega

@[simp] theorem cwCsrWdata_packCommand (x y z : Bool) (a : CsrAddr) (v : Half) (b : Byte) :
    cwCsrWdata (packCommand x y z a v b) = v := by
  have := a.isLt; have := v.isLt; have := b.isLt
  apply BitVec.eq_of_toNat_eq
  rw [cwCsrWdata, BitVec.extractLsb'_toNat, packCommand_toNat, Nat.shiftRight_eq_div_pow]
  cases x <;> cases y <;> cases z <;> simp <;> omega

@[simp] theorem cwInData_packCommand (x y z : Bool) (a : CsrAddr) (v : Half) (b : Byte) :
    cwInData (packCommand x y z a v b) = b := by
  have := a.isLt; have := v.isLt; have := b.isLt
  apply BitVec.eq_of_toNat_eq
  rw [cwInData, BitVec.extractLsb'_toNat, packCommand_toNat, Nat.shiftRight_eq_div_pow]
  cases x <;> cases y <;> cases z <;> simp <;> omega

theorem half_toNat (h l : Byte) : (half h l).toNat = h.toNat * 256 + l.toNat := by
  have := l.isLt
  show (h ++ l).toNat = _
  rw [BitVec.toNat_append, Nat.shiftLeft_eq, Nat.mul_comm, ← Nat.two_pow_add_eq_or_of_lt (by omega)]

theorem hiByte_toNat (v : Half) : (hiByte v).toNat = v.toNat / 256 := by
  have := v.isLt
  rw [hiByte, BitVec.extractLsb'_toNat, Nat.shiftRight_eq_div_pow]; omega

theorem loByte_toNat (v : Half) : (loByte v).toNat = v.toNat % 256 := by
  rw [loByte, BitVec.extractLsb'_toNat, Nat.shiftRight_eq_div_pow]; omega

@[simp] theorem half_hi_lo (v : Half) : half (hiByte v) (loByte v) = v := by
  apply BitVec.eq_of_toNat_eq
  rw [half_toNat, hiByte_toNat, loByte_toNat]; omega

@[simp] theorem hiByte_half (h l : Byte) : hiByte (half h l) = h := by
  apply BitVec.eq_of_toNat_eq
  have := l.isLt
  rw [hiByte_toNat, half_toNat]; omega

@[simp] theorem loByte_half (h l : Byte) : loByte (half h l) = l := by
  apply BitVec.eq_of_toNat_eq
  have := l.isLt
  rw [loByte_toNat, half_toNat]; omega

@[simp] theorem setLo_setHi (v : Half) (h l : Byte) : setLo (setHi v h) l = half h l := by simp [setLo, setHi]

@[simp] theorem setHi_setLo (v : Half) (h l : Byte) : setHi (setLo v l) h = half h l := by simp [setLo, setHi]

theorem candidate_toNat (w : Window) (b : Byte) : (candidate w b).toNat = w.toNat * 256 + b.toNat := by
  have := b.isLt
  show (w ++ b).toNat = _
  rw [BitVec.toNat_append, Nat.shiftLeft_eq, Nat.mul_comm, ← Nat.two_pow_add_eq_or_of_lt (by omega)]

theorem shiftWindow_toNat (w : Window) (b : Byte) : (shiftWindow w b).toNat = w.toNat % 65536 * 256 + b.toNat := by
  have := b.isLt
  show (w.extractLsb' 0 16 ++ b).toNat = _
  rw [BitVec.toNat_append, Nat.shiftLeft_eq, Nat.mul_comm, ← Nat.two_pow_add_eq_or_of_lt (by omega),
    BitVec.extractLsb'_toNat]
  simp; omega

/-- The byte that completes the sentinel, and the only window before it (R123). -/
theorem candidate_eq_sentinel (w : Window) (b : Byte) :
    candidate w b = sentinel ↔ w = 0xAA55AA ∧ b = 0x55 := by
  have := b.isLt
  constructor
  · intro h
    have h := congrArg BitVec.toNat h
    rw [candidate_toNat] at h
    simp [sentinel] at h
    constructor <;> apply BitVec.eq_of_toNat_eq <;> simp <;> omega
  · rintro ⟨rfl, rfl⟩; decide

/-- What the operation decode makes of an input record (R85). -/
theorem decode_record (c : PushContext) (r : InputRecord) :
    decode c (.command r.command) =
      if r.rst then .ok .reset
      else match r.inValid, r.csrWe with
        | false, false => .ok .nop
        | false, true => .ok (decodeWrcsr r.csrAddr r.csrWdata)
        | true, false => decodePush c r.inData
        | true, true => .ok (.pushWrcsr r.csrAddr r.csrWdata r.inData) := by
  simp only [decode, decodeCommand, InputRecord.command, cwRst_packCommand, cwInValid_packCommand, cwCsrWe_packCommand,
    cwCsrAddr_packCommand, cwCsrWdata_packCommand, cwInData_packCommand]
  all_goals cases r.rst <;> cases r.inValid <;> cases r.csrWe <;> rfl

end Sys2Proof.Machine
end

