-- ==== Sys2Proof/Laws/Crc.lean ====
section
/-! SUPPORT. The checksum: the running value over a concatenation, and that no update loses information
(spec/40_frame_model.md R103 to R105). -/

namespace Sys2Proof.Machine

/-- The shift leaves in bit 0 the bit it tested. -/
theorem crcShift_bit0 (c : Half) : (crcShift c).getLsbD 0 = c.msb := by
  unfold crcShift; split <;> simp_all [crcPoly]

theorem crcShift_injective : Function.Injective crcShift := by
  intro c d h
  have hb : c.msb = d.msb := by rw [← crcShift_bit0, ← crcShift_bit0, h]
  have h1 : c <<< 1 = d <<< 1 := by
    unfold crcShift at h
    rw [← hb] at h
    split at h
    · have := congrArg (· ^^^ crcPoly) h
      simpa [BitVec.xor_assoc] using this
    · exact h
  have hc := c.isLt; have hd := d.isLt
  have h2 := congrArg BitVec.toNat h1
  rw [BitVec.msb_eq_decide, BitVec.msb_eq_decide] at hb
  simp [BitVec.toNat_shiftLeft, Nat.shiftLeft_eq] at h2 hb
  apply BitVec.eq_of_toNat_eq
  omega

theorem crcShifts_injective (n : Nat) : Function.Injective (crcShifts n) := by
  induction n with
  | zero => exact fun _ _ h => h
  | succ n ih => exact fun c d h => crcShift_injective (ih h)

theorem crc16Update_injective_left (b : Byte) : Function.Injective fun c => crc16Update c b := by
  intro c d h
  have := crcShifts_injective 8 h
  have := congrArg (· ^^^ half b 0) this
  simpa [BitVec.xor_assoc] using this

theorem crc16Update_injective_right (c : Half) : Function.Injective (crc16Update c) := by
  intro a b h
  have := crcShifts_injective 8 h
  have := (BitVec.xor_right_inj c).1 this
  rw [← hiByte_half a 0, ← hiByte_half b 0, this]

theorem crcRun_injective (bs : List Byte) : Function.Injective fun c => crcRun c bs := by
  induction bs with
  | nil => exact fun _ _ h => h
  | cons b bs ih => exact fun c d h => crc16Update_injective_left b (ih h)

theorem crcRun_append (c : Half) (xs ys : List Byte) : crcRun c (xs ++ ys) = crcRun (crcRun c xs) ys := by
  simp [crcRun]

/-- With no final inversion the checksum is the running value (R104). -/
theorem crc16_eq (bs : List Byte) : crc16 bs = crcRun crcInit bs := by simp [crc16, crcXorout]

end Sys2Proof.Machine
end

