-- ==== Sys2Proof/Laws/State.lean ====
section
/-! SUPPORT. One lemma per field per update of the state, each true by rfl, so that no proof unfolds a record
update. -/

namespace Sys2Proof.Machine

/-! ### quiet -/

@[simp] theorem quiet_st (s : State) : (s.quiet).st = s.st := rfl
@[simp] theorem quiet_win (s : State) : (s.quiet).win = s.win := rfl
@[simp] theorem quiet_seekCnt (s : State) : (s.quiet).seekCnt = s.seekCnt := rfl
@[simp] theorem quiet_wait (s : State) : (s.quiet).wait = s.wait := rfl
@[simp] theorem quiet_size (s : State) : (s.quiet).size = s.size := rfl
@[simp] theorem quiet_crcRx (s : State) : (s.quiet).crcRx = s.crcRx := rfl
@[simp] theorem quiet_msgType (s : State) : (s.quiet).msgType = s.msgType := rfl
@[simp] theorem quiet_format (s : State) : (s.quiet).format = s.format := rfl
@[simp] theorem quiet_crcAcc (s : State) : (s.quiet).crcAcc = s.crcAcc := rfl
@[simp] theorem quiet_maxSize (s : State) : (s.quiet).maxSize = s.maxSize := rfl
@[simp] theorem quiet_evValid (s : State) : (s.quiet).evValid = false := rfl
@[simp] theorem quiet_evKind (s : State) : (s.quiet).evKind = s.evKind := rfl
@[simp] theorem quiet_pbuf (s : State) : (s.quiet).pbuf = s.pbuf := rfl
@[simp] theorem quiet_cfg (s : State) : (s.quiet).cfg = s.cfg := rfl
@[simp] theorem quiet_inputs (s : State) : (s.quiet).inputs = s.inputs := rfl
@[simp] theorem quiet_out (s : State) : (s.quiet).out = s.out := rfl
@[simp] theorem quiet_events (s : State) : (s.quiet).events = s.events := rfl

/-! ### setEvent -/

@[simp] theorem setEvent_st (k : EventKind) (s : State) : (s.setEvent k).st = s.st := rfl
@[simp] theorem setEvent_win (k : EventKind) (s : State) : (s.setEvent k).win = s.win := rfl
@[simp] theorem setEvent_seekCnt (k : EventKind) (s : State) : (s.setEvent k).seekCnt = s.seekCnt := rfl
@[simp] theorem setEvent_wait (k : EventKind) (s : State) : (s.setEvent k).wait = s.wait := rfl
@[simp] theorem setEvent_size (k : EventKind) (s : State) : (s.setEvent k).size = s.size := rfl
@[simp] theorem setEvent_crcRx (k : EventKind) (s : State) : (s.setEvent k).crcRx = s.crcRx := rfl
@[simp] theorem setEvent_msgType (k : EventKind) (s : State) : (s.setEvent k).msgType = s.msgType := rfl
@[simp] theorem setEvent_format (k : EventKind) (s : State) : (s.setEvent k).format = s.format := rfl
@[simp] theorem setEvent_crcAcc (k : EventKind) (s : State) : (s.setEvent k).crcAcc = s.crcAcc := rfl
@[simp] theorem setEvent_maxSize (k : EventKind) (s : State) : (s.setEvent k).maxSize = s.maxSize := rfl
@[simp] theorem setEvent_evValid (k : EventKind) (s : State) : (s.setEvent k).evValid = true := rfl
@[simp] theorem setEvent_evKind (k : EventKind) (s : State) : (s.setEvent k).evKind = k := rfl
@[simp] theorem setEvent_pbuf (k : EventKind) (s : State) : (s.setEvent k).pbuf = s.pbuf := rfl
@[simp] theorem setEvent_cfg (k : EventKind) (s : State) : (s.setEvent k).cfg = s.cfg := rfl
@[simp] theorem setEvent_inputs (k : EventKind) (s : State) : (s.setEvent k).inputs = s.inputs := rfl
@[simp] theorem setEvent_out (k : EventKind) (s : State) : (s.setEvent k).out = s.out := rfl
@[simp] theorem setEvent_events (k : EventKind) (s : State) : (s.setEvent k).events = s.events := rfl

/-! ### pbWrite -/

@[simp] theorem pbWrite_st (a : Nat) (v : Byte) (s : State) : (s.pbWrite a v).st = s.st := rfl
@[simp] theorem pbWrite_win (a : Nat) (v : Byte) (s : State) : (s.pbWrite a v).win = s.win := rfl
@[simp] theorem pbWrite_seekCnt (a : Nat) (v : Byte) (s : State) : (s.pbWrite a v).seekCnt = s.seekCnt := rfl
@[simp] theorem pbWrite_wait (a : Nat) (v : Byte) (s : State) : (s.pbWrite a v).wait = s.wait := rfl
@[simp] theorem pbWrite_size (a : Nat) (v : Byte) (s : State) : (s.pbWrite a v).size = s.size := rfl
@[simp] theorem pbWrite_crcRx (a : Nat) (v : Byte) (s : State) : (s.pbWrite a v).crcRx = s.crcRx := rfl
@[simp] theorem pbWrite_msgType (a : Nat) (v : Byte) (s : State) : (s.pbWrite a v).msgType = s.msgType := rfl
@[simp] theorem pbWrite_format (a : Nat) (v : Byte) (s : State) : (s.pbWrite a v).format = s.format := rfl
@[simp] theorem pbWrite_crcAcc (a : Nat) (v : Byte) (s : State) : (s.pbWrite a v).crcAcc = s.crcAcc := rfl
@[simp] theorem pbWrite_maxSize (a : Nat) (v : Byte) (s : State) : (s.pbWrite a v).maxSize = s.maxSize := rfl
@[simp] theorem pbWrite_evValid (a : Nat) (v : Byte) (s : State) : (s.pbWrite a v).evValid = s.evValid := rfl
@[simp] theorem pbWrite_evKind (a : Nat) (v : Byte) (s : State) : (s.pbWrite a v).evKind = s.evKind := rfl
@[simp] theorem pbWrite_pbuf (a : Nat) (v : Byte) (s : State) : (s.pbWrite a v).pbuf = Memory.store s.pbuf a v := rfl
@[simp] theorem pbWrite_cfg (a : Nat) (v : Byte) (s : State) : (s.pbWrite a v).cfg = s.cfg := rfl
@[simp] theorem pbWrite_inputs (a : Nat) (v : Byte) (s : State) : (s.pbWrite a v).inputs = s.inputs := rfl
@[simp] theorem pbWrite_out (a : Nat) (v : Byte) (s : State) : (s.pbWrite a v).out = s.out := rfl
@[simp] theorem pbWrite_events (a : Nat) (v : Byte) (s : State) : (s.pbWrite a v).events = s.events := rfl

/-! ### enterSeek -/

@[simp] theorem enterSeek_st (s : State) : (s.enterSeek).st = .seek := rfl
@[simp] theorem enterSeek_win (s : State) : (s.enterSeek).win = 0 := rfl
@[simp] theorem enterSeek_seekCnt (s : State) : (s.enterSeek).seekCnt = 0 := rfl
@[simp] theorem enterSeek_wait (s : State) : (s.enterSeek).wait = 0 := rfl
@[simp] theorem enterSeek_size (s : State) : (s.enterSeek).size = s.size := rfl
@[simp] theorem enterSeek_crcRx (s : State) : (s.enterSeek).crcRx = s.crcRx := rfl
@[simp] theorem enterSeek_msgType (s : State) : (s.enterSeek).msgType = s.msgType := rfl
@[simp] theorem enterSeek_format (s : State) : (s.enterSeek).format = s.format := rfl
@[simp] theorem enterSeek_crcAcc (s : State) : (s.enterSeek).crcAcc = s.crcAcc := rfl
@[simp] theorem enterSeek_maxSize (s : State) : (s.enterSeek).maxSize = s.maxSize := rfl
@[simp] theorem enterSeek_evValid (s : State) : (s.enterSeek).evValid = s.evValid := rfl
@[simp] theorem enterSeek_evKind (s : State) : (s.enterSeek).evKind = s.evKind := rfl
@[simp] theorem enterSeek_pbuf (s : State) : (s.enterSeek).pbuf = s.pbuf := rfl
@[simp] theorem enterSeek_cfg (s : State) : (s.enterSeek).cfg = s.cfg := rfl
@[simp] theorem enterSeek_inputs (s : State) : (s.enterSeek).inputs = s.inputs := rfl
@[simp] theorem enterSeek_out (s : State) : (s.enterSeek).out = s.out := rfl
@[simp] theorem enterSeek_events (s : State) : (s.enterSeek).events = s.events := rfl

/-! ### record -/

@[simp] theorem record_st (e : FrameEvent) (s : State) : (s.record e).st = s.st := rfl
@[simp] theorem record_win (e : FrameEvent) (s : State) : (s.record e).win = s.win := rfl
@[simp] theorem record_seekCnt (e : FrameEvent) (s : State) : (s.record e).seekCnt = s.seekCnt := rfl
@[simp] theorem record_wait (e : FrameEvent) (s : State) : (s.record e).wait = s.wait := rfl
@[simp] theorem record_size (e : FrameEvent) (s : State) : (s.record e).size = s.size := rfl
@[simp] theorem record_crcRx (e : FrameEvent) (s : State) : (s.record e).crcRx = s.crcRx := rfl
@[simp] theorem record_msgType (e : FrameEvent) (s : State) : (s.record e).msgType = s.msgType := rfl
@[simp] theorem record_format (e : FrameEvent) (s : State) : (s.record e).format = s.format := rfl
@[simp] theorem record_crcAcc (e : FrameEvent) (s : State) : (s.record e).crcAcc = s.crcAcc := rfl
@[simp] theorem record_maxSize (e : FrameEvent) (s : State) : (s.record e).maxSize = s.maxSize := rfl
@[simp] theorem record_evValid (e : FrameEvent) (s : State) : (s.record e).evValid = s.evValid := rfl
@[simp] theorem record_evKind (e : FrameEvent) (s : State) : (s.record e).evKind = s.evKind := rfl
@[simp] theorem record_pbuf (e : FrameEvent) (s : State) : (s.record e).pbuf = s.pbuf := rfl
@[simp] theorem record_cfg (e : FrameEvent) (s : State) : (s.record e).cfg = s.cfg := rfl
@[simp] theorem record_inputs (e : FrameEvent) (s : State) : (s.record e).inputs = s.inputs := rfl
@[simp] theorem record_out (e : FrameEvent) (s : State) : (s.record e).out = s.out := rfl
@[simp] theorem record_events (e : FrameEvent) (s : State) : (s.record e).events = s.events ++ [e] := rfl

/-! ### countDown -/

@[simp] theorem countDown_st (s : State) : (s.countDown).st = s.st := rfl
@[simp] theorem countDown_win (s : State) : (s.countDown).win = s.win := rfl
@[simp] theorem countDown_seekCnt (s : State) : (s.countDown).seekCnt = s.seekCnt := rfl
@[simp] theorem countDown_wait (s : State) : (s.countDown).wait = s.wait - 1 := rfl
@[simp] theorem countDown_size (s : State) : (s.countDown).size = s.size := rfl
@[simp] theorem countDown_crcRx (s : State) : (s.countDown).crcRx = s.crcRx := rfl
@[simp] theorem countDown_msgType (s : State) : (s.countDown).msgType = s.msgType := rfl
@[simp] theorem countDown_format (s : State) : (s.countDown).format = s.format := rfl
@[simp] theorem countDown_crcAcc (s : State) : (s.countDown).crcAcc = s.crcAcc := rfl
@[simp] theorem countDown_maxSize (s : State) : (s.countDown).maxSize = s.maxSize := rfl
@[simp] theorem countDown_evValid (s : State) : (s.countDown).evValid = false := rfl
@[simp] theorem countDown_evKind (s : State) : (s.countDown).evKind = s.evKind := rfl
@[simp] theorem countDown_pbuf (s : State) : (s.countDown).pbuf = s.pbuf := rfl
@[simp] theorem countDown_cfg (s : State) : (s.countDown).cfg = s.cfg := rfl
@[simp] theorem countDown_inputs (s : State) : (s.countDown).inputs = s.inputs := rfl
@[simp] theorem countDown_out (s : State) : (s.countDown).out = s.out := rfl
@[simp] theorem countDown_events (s : State) : (s.countDown).events = s.events := rfl

/-! ### cover -/

@[simp] theorem cover_st (b : Byte) (s : State) : (s.cover b).st = s.st := rfl
@[simp] theorem cover_win (b : Byte) (s : State) : (s.cover b).win = s.win := rfl
@[simp] theorem cover_seekCnt (b : Byte) (s : State) : (s.cover b).seekCnt = s.seekCnt := rfl
@[simp] theorem cover_wait (b : Byte) (s : State) : (s.cover b).wait = s.wait := rfl
@[simp] theorem cover_size (b : Byte) (s : State) : (s.cover b).size = s.size := rfl
@[simp] theorem cover_crcRx (b : Byte) (s : State) : (s.cover b).crcRx = s.crcRx := rfl
@[simp] theorem cover_msgType (b : Byte) (s : State) : (s.cover b).msgType = s.msgType := rfl
@[simp] theorem cover_format (b : Byte) (s : State) : (s.cover b).format = s.format := rfl
@[simp] theorem cover_crcAcc (b : Byte) (s : State) : (s.cover b).crcAcc = crc16Update s.crcAcc b := rfl
@[simp] theorem cover_maxSize (b : Byte) (s : State) : (s.cover b).maxSize = s.maxSize := rfl
@[simp] theorem cover_evValid (b : Byte) (s : State) : (s.cover b).evValid = s.evValid := rfl
@[simp] theorem cover_evKind (b : Byte) (s : State) : (s.cover b).evKind = s.evKind := rfl
@[simp] theorem cover_pbuf (b : Byte) (s : State) : (s.cover b).pbuf = s.pbuf := rfl
@[simp] theorem cover_cfg (b : Byte) (s : State) : (s.cover b).cfg = s.cfg := rfl
@[simp] theorem cover_inputs (b : Byte) (s : State) : (s.cover b).inputs = s.inputs := rfl
@[simp] theorem cover_out (b : Byte) (s : State) : (s.cover b).out = s.out := rfl
@[simp] theorem cover_events (b : Byte) (s : State) : (s.cover b).events = s.events := rfl

/-! ### the header bytes: WAIT counts down (R124) -/

@[simp] theorem pushSizeHi_wait (b : Byte) (s : State) : (s.pushSizeHi b).wait = s.wait - 1 := rfl
@[simp] theorem pushSizeLo_wait (b : Byte) (s : State) : (s.pushSizeLo b).wait = s.wait - 1 := rfl
@[simp] theorem pushCrcLo_wait (b : Byte) (s : State) : (s.pushCrcLo b).wait = s.wait - 1 := rfl
@[simp] theorem pushCrcHi_wait (b : Byte) (s : State) : (s.pushCrcHi b).wait = s.wait - 1 := rfl
@[simp] theorem pushTypeHi_wait (b : Byte) (s : State) : (s.pushTypeHi b).wait = s.wait - 1 := rfl
@[simp] theorem pushTypeLo_wait (b : Byte) (s : State) : (s.pushTypeLo b).wait = s.wait - 1 := rfl
@[simp] theorem pushFmtHi_wait (b : Byte) (s : State) : (s.pushFmtHi b).wait = s.wait - 1 := rfl

/-! ### pushSentinel -/

@[simp] theorem pushSentinel_st (s : State) : (s.pushSentinel).st = .hdr := rfl
@[simp] theorem pushSentinel_win (s : State) : (s.pushSentinel).win = 0 := rfl
@[simp] theorem pushSentinel_seekCnt (s : State) : (s.pushSentinel).seekCnt = 0 := rfl
@[simp] theorem pushSentinel_wait (s : State) : (s.pushSentinel).wait = 8 := rfl
@[simp] theorem pushSentinel_size (s : State) : (s.pushSentinel).size = s.size := rfl
@[simp] theorem pushSentinel_crcRx (s : State) : (s.pushSentinel).crcRx = s.crcRx := rfl
@[simp] theorem pushSentinel_msgType (s : State) : (s.pushSentinel).msgType = s.msgType := rfl
@[simp] theorem pushSentinel_format (s : State) : (s.pushSentinel).format = s.format := rfl
@[simp] theorem pushSentinel_crcAcc (s : State) : (s.pushSentinel).crcAcc = crcInit := rfl
@[simp] theorem pushSentinel_maxSize (s : State) : (s.pushSentinel).maxSize = s.maxSize := rfl
@[simp] theorem pushSentinel_evValid (s : State) : (s.pushSentinel).evValid = false := rfl
@[simp] theorem pushSentinel_evKind (s : State) : (s.pushSentinel).evKind = s.evKind := rfl
@[simp] theorem pushSentinel_pbuf (s : State) : (s.pushSentinel).pbuf = s.pbuf := rfl
@[simp] theorem pushSentinel_cfg (s : State) : (s.pushSentinel).cfg = s.cfg := rfl
@[simp] theorem pushSentinel_inputs (s : State) : (s.pushSentinel).inputs = s.inputs := rfl
@[simp] theorem pushSentinel_out (s : State) : (s.pushSentinel).out = s.out := rfl
@[simp] theorem pushSentinel_events (s : State) : (s.pushSentinel).events = s.events := rfl

/-! ### resetRegisters -/

@[simp] theorem resetRegisters_st (s : State) : (s.resetRegisters).st = .seek := rfl
@[simp] theorem resetRegisters_win (s : State) : (s.resetRegisters).win = 0 := rfl
@[simp] theorem resetRegisters_seekCnt (s : State) : (s.resetRegisters).seekCnt = 0 := rfl
@[simp] theorem resetRegisters_wait (s : State) : (s.resetRegisters).wait = 0 := rfl
@[simp] theorem resetRegisters_size (s : State) : (s.resetRegisters).size = 0 := rfl
@[simp] theorem resetRegisters_crcRx (s : State) : (s.resetRegisters).crcRx = 0 := rfl
@[simp] theorem resetRegisters_msgType (s : State) : (s.resetRegisters).msgType = 0 := rfl
@[simp] theorem resetRegisters_format (s : State) : (s.resetRegisters).format = 0 := rfl
@[simp] theorem resetRegisters_crcAcc (s : State) : (s.resetRegisters).crcAcc = crcInit := rfl
@[simp] theorem resetRegisters_maxSize (s : State) : (s.resetRegisters).maxSize = s.cfg.maxSizeCeiling := rfl
@[simp] theorem resetRegisters_evValid (s : State) : (s.resetRegisters).evValid = false := rfl
@[simp] theorem resetRegisters_evKind (s : State) : (s.resetRegisters).evKind = .frameReady := rfl
@[simp] theorem resetRegisters_pbuf (s : State) : (s.resetRegisters).pbuf = s.pbuf := rfl
@[simp] theorem resetRegisters_cfg (s : State) : (s.resetRegisters).cfg = s.cfg := rfl
@[simp] theorem resetRegisters_inputs (s : State) : (s.resetRegisters).inputs = s.inputs := rfl
@[simp] theorem resetRegisters_out (s : State) : (s.resetRegisters).out = s.out := rfl
@[simp] theorem resetRegisters_events (s : State) : (s.resetRegisters).events = s.events := rfl

/-! ### showCsr -/

@[simp] theorem showCsr_st (v : Half) (s : State) : (s.showCsr v).st = s.st := rfl
@[simp] theorem showCsr_win (v : Half) (s : State) : (s.showCsr v).win = s.win := rfl
@[simp] theorem showCsr_seekCnt (v : Half) (s : State) : (s.showCsr v).seekCnt = s.seekCnt := rfl
@[simp] theorem showCsr_wait (v : Half) (s : State) : (s.showCsr v).wait = s.wait := rfl
@[simp] theorem showCsr_size (v : Half) (s : State) : (s.showCsr v).size = s.size := rfl
@[simp] theorem showCsr_crcRx (v : Half) (s : State) : (s.showCsr v).crcRx = s.crcRx := rfl
@[simp] theorem showCsr_msgType (v : Half) (s : State) : (s.showCsr v).msgType = s.msgType := rfl
@[simp] theorem showCsr_format (v : Half) (s : State) : (s.showCsr v).format = s.format := rfl
@[simp] theorem showCsr_crcAcc (v : Half) (s : State) : (s.showCsr v).crcAcc = s.crcAcc := rfl
@[simp] theorem showCsr_maxSize (v : Half) (s : State) : (s.showCsr v).maxSize = s.maxSize := rfl
@[simp] theorem showCsr_evValid (v : Half) (s : State) : (s.showCsr v).evValid = s.evValid := rfl
@[simp] theorem showCsr_evKind (v : Half) (s : State) : (s.showCsr v).evKind = s.evKind := rfl
@[simp] theorem showCsr_pbuf (v : Half) (s : State) : (s.showCsr v).pbuf = s.pbuf := rfl
@[simp] theorem showCsr_cfg (v : Half) (s : State) : (s.showCsr v).cfg = s.cfg := rfl
@[simp] theorem showCsr_inputs (v : Half) (s : State) : (s.showCsr v).inputs = s.inputs := rfl
@[simp] theorem showCsr_events (v : Half) (s : State) : (s.showCsr v).events = s.events := rfl

/-! ### showPb -/

@[simp] theorem showPb_st (v : Byte) (s : State) : (s.showPb v).st = s.st := rfl
@[simp] theorem showPb_win (v : Byte) (s : State) : (s.showPb v).win = s.win := rfl
@[simp] theorem showPb_seekCnt (v : Byte) (s : State) : (s.showPb v).seekCnt = s.seekCnt := rfl
@[simp] theorem showPb_wait (v : Byte) (s : State) : (s.showPb v).wait = s.wait := rfl
@[simp] theorem showPb_size (v : Byte) (s : State) : (s.showPb v).size = s.size := rfl
@[simp] theorem showPb_crcRx (v : Byte) (s : State) : (s.showPb v).crcRx = s.crcRx := rfl
@[simp] theorem showPb_msgType (v : Byte) (s : State) : (s.showPb v).msgType = s.msgType := rfl
@[simp] theorem showPb_format (v : Byte) (s : State) : (s.showPb v).format = s.format := rfl
@[simp] theorem showPb_crcAcc (v : Byte) (s : State) : (s.showPb v).crcAcc = s.crcAcc := rfl
@[simp] theorem showPb_maxSize (v : Byte) (s : State) : (s.showPb v).maxSize = s.maxSize := rfl
@[simp] theorem showPb_evValid (v : Byte) (s : State) : (s.showPb v).evValid = s.evValid := rfl
@[simp] theorem showPb_evKind (v : Byte) (s : State) : (s.showPb v).evKind = s.evKind := rfl
@[simp] theorem showPb_pbuf (v : Byte) (s : State) : (s.showPb v).pbuf = s.pbuf := rfl
@[simp] theorem showPb_cfg (v : Byte) (s : State) : (s.showPb v).cfg = s.cfg := rfl
@[simp] theorem showPb_inputs (v : Byte) (s : State) : (s.showPb v).inputs = s.inputs := rfl
@[simp] theorem showPb_events (v : Byte) (s : State) : (s.showPb v).events = s.events := rfl

/-! ### showFormat -/

@[simp] theorem showFormat_st (f : Half) (s : State) : (s.showFormat f).st = s.st := rfl
@[simp] theorem showFormat_win (f : Half) (s : State) : (s.showFormat f).win = s.win := rfl
@[simp] theorem showFormat_seekCnt (f : Half) (s : State) : (s.showFormat f).seekCnt = s.seekCnt := rfl
@[simp] theorem showFormat_wait (f : Half) (s : State) : (s.showFormat f).wait = s.wait := rfl
@[simp] theorem showFormat_size (f : Half) (s : State) : (s.showFormat f).size = s.size := rfl
@[simp] theorem showFormat_crcRx (f : Half) (s : State) : (s.showFormat f).crcRx = s.crcRx := rfl
@[simp] theorem showFormat_msgType (f : Half) (s : State) : (s.showFormat f).msgType = s.msgType := rfl
@[simp] theorem showFormat_format (f : Half) (s : State) : (s.showFormat f).format = s.format := rfl
@[simp] theorem showFormat_crcAcc (f : Half) (s : State) : (s.showFormat f).crcAcc = s.crcAcc := rfl
@[simp] theorem showFormat_maxSize (f : Half) (s : State) : (s.showFormat f).maxSize = s.maxSize := rfl
@[simp] theorem showFormat_evValid (f : Half) (s : State) : (s.showFormat f).evValid = s.evValid := rfl
@[simp] theorem showFormat_evKind (f : Half) (s : State) : (s.showFormat f).evKind = s.evKind := rfl
@[simp] theorem showFormat_pbuf (f : Half) (s : State) : (s.showFormat f).pbuf = s.pbuf := rfl
@[simp] theorem showFormat_cfg (f : Half) (s : State) : (s.showFormat f).cfg = s.cfg := rfl
@[simp] theorem showFormat_inputs (f : Half) (s : State) : (s.showFormat f).inputs = s.inputs := rfl
@[simp] theorem showFormat_events (f : Half) (s : State) : (s.showFormat f).events = s.events := rfl

/-! ### beginCycle -/

@[simp] theorem beginCycle_st (s : State) : (s.beginCycle).st = s.st := rfl
@[simp] theorem beginCycle_win (s : State) : (s.beginCycle).win = s.win := rfl
@[simp] theorem beginCycle_seekCnt (s : State) : (s.beginCycle).seekCnt = s.seekCnt := rfl
@[simp] theorem beginCycle_wait (s : State) : (s.beginCycle).wait = s.wait := rfl
@[simp] theorem beginCycle_size (s : State) : (s.beginCycle).size = s.size := rfl
@[simp] theorem beginCycle_crcRx (s : State) : (s.beginCycle).crcRx = s.crcRx := rfl
@[simp] theorem beginCycle_msgType (s : State) : (s.beginCycle).msgType = s.msgType := rfl
@[simp] theorem beginCycle_format (s : State) : (s.beginCycle).format = s.format := rfl
@[simp] theorem beginCycle_crcAcc (s : State) : (s.beginCycle).crcAcc = s.crcAcc := rfl
@[simp] theorem beginCycle_maxSize (s : State) : (s.beginCycle).maxSize = s.maxSize := rfl
@[simp] theorem beginCycle_evValid (s : State) : (s.beginCycle).evValid = s.evValid := rfl
@[simp] theorem beginCycle_evKind (s : State) : (s.beginCycle).evKind = s.evKind := rfl
@[simp] theorem beginCycle_pbuf (s : State) : (s.beginCycle).pbuf = s.pbuf := rfl
@[simp] theorem beginCycle_cfg (s : State) : (s.beginCycle).cfg = s.cfg := rfl
@[simp] theorem beginCycle_inputs (s : State) : (s.beginCycle).inputs = s.inputs.tail := rfl
@[simp] theorem beginCycle_events (s : State) : (s.beginCycle).events = s.events := rfl

end Sys2Proof.Machine
end

