-- ==== Sys2Proof/Laws/Memory.lean ====
section
/-! SUPPORT. The payload buffer: a read after a write, and the canonical form, which every operation keeps and the
reset memory has (spec/20_memory.md R57, R58; assumption log 3). -/

namespace Sys2Proof.Machine

/-- A read after a write: the cell written holds the byte, every other cell is as before. -/
theorem lookup_store (m : Memory) (a x : Nat) (v : Byte) :
    Memory.lookup (Memory.store m a v) x = if x = a then some v else Memory.lookup m x := by
  induction m with
  | nil => simp [Memory.store, Memory.lookup, eq_comm]
  | cons c m ih =>
    obtain ⟨y, w⟩ := c
    simp only [Memory.store]
    split
    · simp [Memory.lookup, eq_comm]
    · split
      · subst_vars; simp only [Memory.lookup]; split <;> simp_all [eq_comm]
      · simp only [Memory.lookup, ih]
        by_cases h1 : y = x
        · rw [if_pos h1, if_neg (by omega), if_pos h1]
        · rw [if_neg h1, if_neg h1]

theorem wf_cons (x : Nat) (w : Byte) (m : Memory) :
    Memory.wf ((x, w) :: m) = true ↔ (∀ c ∈ m.head?, x < c.1) ∧ Memory.wf m = true := by
  cases m with
  | nil => simp [Memory.wf]
  | cons c m => obtain ⟨y, u⟩ := c; simp [Memory.wf]

theorem head_store (m : Memory) (a : Nat) (v : Byte) (x : Nat) (hx : x < a)
    (h : ∀ c ∈ m.head?, x < c.1) : ∀ c ∈ (Memory.store m a v).head?, x < c.1 := by
  cases m with
  | nil => simpa [Memory.store] using hx
  | cons c m =>
    obtain ⟨y, u⟩ := c
    simp only [Memory.store]
    simp at h
    split
    · simpa using hx
    · split <;> simp_all

/-- A write keeps the canonical form. -/
theorem wf_store (m : Memory) (a : Nat) (v : Byte) (h : Memory.wf m = true) : Memory.wf (Memory.store m a v) = true := by
  induction m with
  | nil => simp [Memory.store, Memory.wf]
  | cons c m ih =>
    obtain ⟨y, u⟩ := c
    have h2 := (wf_cons y u m).1 h
    simp only [Memory.store]
    split
    · simp [Memory.wf, *]
    · split
      · subst_vars; exact (wf_cons _ v m).2 h2
      · exact (wf_cons _ _ _).2 ⟨head_store m a v y (by omega) h2.1, ih h2.2⟩

/-- A write to an existing cell lists only existing cells. -/
theorem within_store (m : Memory) (a c : Nat) (v : Byte) (h : Memory.within m c = true) (ha : a < c) :
    Memory.within (Memory.store m a v) c = true := by
  induction m with
  | nil => simpa [Memory.store, Memory.within] using ha
  | cons d m ih =>
    obtain ⟨y, u⟩ := d
    have h2 : decide (y < c) = true ∧ Memory.within m c = true := by
      simpa only [Memory.within, List.all_cons, Bool.and_eq_true] using h
    simp only [Memory.store]
    split
    · simp only [Memory.within, List.all_cons, Bool.and_eq_true]
      exact ⟨decide_eq_true ha, h2⟩
    · split
      · simp only [Memory.within, List.all_cons, Bool.and_eq_true]
        exact ⟨decide_eq_true ha, h2.2⟩
      · simp only [Memory.within, List.all_cons, Bool.and_eq_true]
        exact ⟨h2.1, ih h2.2⟩

/-- The reset memory has the canonical form. -/
theorem wf_reset : Memory.wf State.reset.pbuf = true := rfl

/-- The byte shown for an address depends on the buffer and the ceiling alone. -/
theorem pbRead_congr {s t : State} (hc : t.cfg = s.cfg) (hp : t.pbuf = s.pbuf) (a : Nat) : t.pbRead a = s.pbRead a := by
  unfold State.pbRead; rw [hc, hp]

/-- What is shown for an address after a write to an existing cell (R57, R58). -/
theorem pbRead_pbWrite {s : State} {a : Nat} (v : Byte) (h : a < s.cfg.maxSizeCeiling.toNat) (x : Nat) :
    (s.pbWrite a v).pbRead x = if x = a then v else s.pbRead x := by
  simp only [State.pbRead, pbWrite_cfg, pbWrite_pbuf, lookup_store]
  by_cases hx : x = a
  · subst hx; simp [h]
  · simp only [if_neg hx]

/-- The payload an event carries, from the cells (R171). -/
theorem payload_of_lookup (s : State) (data : List Byte) (n : Nat) (hn : data.length = n) (hc : n ≤ s.cfg.maxSizeCeiling.toNat)
   (h : ∀ a, a < n → Memory.lookup s.pbuf a = data[a]?) : s.payload n = data := by
  apply List.ext_getElem?
  intro i
  unfold State.payload
  by_cases hi : i < n
  · simp [hi, State.pbRead, h i hi]
    rw [if_pos (by omega), List.getElem?_eq_getElem (by omega)]; simp
  · simp [hi]; omega

end Sys2Proof.Machine
end

