-- ==== Sys2Proof/Laws/Ops.lean ====
section
/-! SUPPORT. What each shared operation can do, said once: taking an event (spec/60_exceptions.md R179), completing a
frame (spec/41_stream_reassembler.md R134), a CSR write (spec/42_control_ops.md R153), one pushed byte (R120) and the
step (spec/30_encoding.md R85). -/

namespace Sys2Proof.Machine

/-! ## Taking an event -/

@[simp] theorem takeEvent_size (k : EventKind) (s : State) : (s.takeEvent k).size = s.size := by cases k <;> rfl
@[simp] theorem takeEvent_crcRx (k : EventKind) (s : State) : (s.takeEvent k).crcRx = s.crcRx := by cases k <;> rfl
@[simp] theorem takeEvent_msgType (k : EventKind) (s : State) : (s.takeEvent k).msgType = s.msgType := by cases k <;> rfl
@[simp] theorem takeEvent_format (k : EventKind) (s : State) : (s.takeEvent k).format = s.format := by cases k <;> rfl
@[simp] theorem takeEvent_crcAcc (k : EventKind) (s : State) : (s.takeEvent k).crcAcc = s.crcAcc := by cases k <;> rfl
@[simp] theorem takeEvent_maxSize (k : EventKind) (s : State) : (s.takeEvent k).maxSize = s.maxSize := by cases k <;> rfl
@[simp] theorem takeEvent_pbuf (k : EventKind) (s : State) : (s.takeEvent k).pbuf = s.pbuf := by cases k <;> rfl
@[simp] theorem takeEvent_cfg (k : EventKind) (s : State) : (s.takeEvent k).cfg = s.cfg := by cases k <;> rfl
@[simp] theorem takeEvent_inputs (k : EventKind) (s : State) : (s.takeEvent k).inputs = s.inputs := by cases k <;> rfl
@[simp] theorem takeEvent_out (k : EventKind) (s : State) : (s.takeEvent k).out = s.out := by cases k <;> rfl
@[simp] theorem takeEvent_evValid (k : EventKind) (s : State) : (s.takeEvent k).evValid = true := by cases k <;> rfl
@[simp] theorem takeEvent_evKind (k : EventKind) (s : State) : (s.takeEvent k).evKind = k := by cases k <;> rfl
@[simp] theorem takeEvent_events (k : EventKind) (s : State) :
    (s.takeEvent k).events = s.events ++ [s.eventValue k] := by cases k <;> rfl

/-- Every event but DesyncNoise leaves a fresh Seeking (R121, R179). -/
theorem takeEvent_fresh (k : EventKind) (s : State) (h : k ≠ .desyncNoise) : (s.takeEvent k).FreshSeek := by
  cases k <;> simp_all [State.FreshSeek, State.takeEvent, State.eventTail]

/-- DesyncNoise keeps the phase and the window and restarts the count at 3 (R122, R179). -/
theorem takeEvent_desync (s : State) : (s.takeEvent .desyncNoise).st = s.st ∧ (s.takeEvent .desyncNoise).win = s.win ∧
    (s.takeEvent .desyncNoise).seekCnt = 3 ∧ (s.takeEvent .desyncNoise).wait = s.wait := ⟨rfl, rfl, rfl, rfl⟩

@[simp] theorem eventValue_takeEvent (k j : EventKind) (s : State) : (s.takeEvent k).eventValue j = s.eventValue j := by
  cases k <;> cases j <;> rfl

theorem verdict_ne_desync (c r : Half) : verdict c r ≠ .desyncNoise := by
  unfold verdict; split <;> simp

theorem verdict_eq (c r : Half) : verdict c r = if r = c then .frameReady else .checksumMismatch := by
  simp [verdict, crcXorout, eq_comm]

/-- The end of a frame, whole (R134, R171). -/
theorem complete_eq (s : State) (c : Half) (data : List Byte)
  (hd : s.payload s.size.toNat = data) :
    s.complete c = { s with
      st := .seek, win := 0, seekCnt := 0, wait := 0, evValid := true
      evKind := if s.crcRx = c then .frameReady else .checksumMismatch
      events := s.events ++ [if s.crcRx = c then FrameEvent.frameReady
        { header := 0xAA55AA55, size := s.size, crc := s.crcRx, messageType := s.msgType, format := s.format, data := data }
        else .frameRejected .checksumMismatch] } := by
  unfold State.complete
  rw [verdict_eq]
  split
  · subst hd; rfl
  · rfl

/-! ## The ends of the two phases -/

/-- The size bound is exceeded (R132). -/
theorem endHeader_over {s : State} (h : s.maxSize < s.size) : s.endHeader = s.takeEvent .sizeOutOfBounds := if_pos h

/-- The empty payload (R132, R137). -/
theorem endHeader_empty {s : State} (h : s.size = 0) : s.endHeader = s.complete s.crcAcc := by
  unfold State.endHeader; rw [if_neg (by rw [h, BitVec.lt_def]; simp), if_pos h]

/-- The payload phase begins (R132). -/
theorem endHeader_payload {s : State} (h0 : s.size ≠ 0) (h : ¬ s.maxSize < s.size) :
    s.endHeader = { s with st := .pay, wait := s.size }.quiet := by
  unfold State.endHeader; rw [if_neg h, if_neg h0]

theorem endPayload_last {s : State} (h : s.wait = 1) : s.endPayload = s.complete s.crcAcc := if_pos h

theorem endPayload_more {s : State} (h : s.wait ≠ 1) : s.endPayload = s.countDown := if_neg h

/-! ## CSR writes -/

/-- The clamped value (R153). -/
theorem clamp_toNat (c v : Half) : (clampSize c v).toNat = min v.toNat c.toNat := by
  unfold clampSize; split <;> rename_i h <;> rw [BitVec.lt_def] at h <;> omega

theorem bv_min (v c : Half) : clampSize c v = BitVec.ofNat 16 (min v.toNat c.toNat) := by
  unfold clampSize
  split
  · rename_i h; have : c.toNat < v.toNat := by simpa [BitVec.lt_def] using h
    rw [Nat.min_eq_right (by omega)]; simp
  · rename_i h; have : ¬ c.toNat < v.toNat := by simpa [BitVec.lt_def] using h
    rw [Nat.min_eq_left (by omega)]; simp

theorem writeCsr_max (a : CsrAddr) (v : Half) (s : State) :
    (s.writeCsr a v).maxSize.toNat = if a = 0 then min v.toNat s.cfg.maxSizeCeiling.toNat else s.maxSize.toNat := by
  unfold State.writeCsr; split
  · exact clamp_toNat _ _
  · rfl

/-- A CSR write changes nothing but MAX_SIZE (R153). -/
@[simp] theorem writeCsr_other (a : CsrAddr) (v : Half) (s : State) :
    (s.writeCsr a v).st = s.st ∧ (s.writeCsr a v).wait = s.wait ∧ (s.writeCsr a v).cfg = s.cfg ∧ (s.writeCsr a v).inputs = s.inputs ∧
    (s.writeCsr a v).out = s.out ∧ (s.writeCsr a v).evValid = s.evValid ∧ (s.writeCsr a v).evKind = s.evKind ∧
    (s.writeCsr a v).events = s.events ∧ (s.writeCsr a v).pbuf = s.pbuf ∧ (s.writeCsr a v).size = s.size ∧
    (∀ k, (s.writeCsr a v).eventValue k = s.eventValue k) ∧ (∀ x, (s.writeCsr a v).pbRead x = s.pbRead x) := by
  unfold State.writeCsr
  split
  · refine ⟨rfl, rfl, rfl, rfl, rfl, rfl, rfl, rfl, rfl, rfl, fun k => ?_, fun _ => rfl⟩
    cases k <;> rfl
  · simp

/-! ## One pushed byte -/

theorem andThen_next {o : Result} {f : State → Result} {t : State} :
    andThen o f = .next t ↔ ∃ s, o = .next s ∧ f s = .next t := by
  cases o <;> simp [andThen]

/-- Everything one pushed byte can do (R120, R122 to R133). -/
theorem push_cases {b : Byte} {s t : State} (h : s.push b = .next t) :
    (s.st = .seek ∧ candidate s.win b = sentinel ∧ t = s.pushSentinel) ∨
    (s.st = .seek ∧ candidate s.win b ≠ sentinel ∧ t = s.pushSeekByte b) ∨
    (s.st = .hdr ∧ s.wait = 8 ∧ t = s.pushSizeHi b) ∨ (s.st = .hdr ∧ s.wait = 7 ∧ t = s.pushSizeLo b) ∨
    (s.st = .hdr ∧ s.wait = 6 ∧ t = s.pushCrcLo b) ∨ (s.st = .hdr ∧ s.wait = 5 ∧ t = s.pushCrcHi b) ∨
    (s.st = .hdr ∧ s.wait = 4 ∧ t = s.pushTypeHi b) ∨ (s.st = .hdr ∧ s.wait = 3 ∧ t = s.pushTypeLo b) ∨
    (s.st = .hdr ∧ s.wait = 2 ∧ t = s.pushFmtHi b) ∨ (s.st = .hdr ∧ s.wait = 1 ∧ t = s.pushFmtLo b) ∨
    (s.st = .pay ∧ s.payloadOpen = true ∧ s.payloadIndex < s.cfg.maxSizeCeiling.toNat ∧
      t = ((s.pbWrite s.payloadIndex b).cover b).endPayload) := by
  unfold State.push at h
  cases hst : s.st <;> rw [hst] at h <;> simp only at h
  · injection h with h
    split at h
    · exact .inl ⟨rfl, ‹_›, h.symm⟩
    · exact .inr (.inl ⟨rfl, ‹_›, h.symm⟩)
  · unfold State.pushHeader at h
    split at h <;> (try injection h with h) <;> rename_i hw <;>
      [have hw : s.wait = 8 := BitVec.eq_of_toNat_eq hw; have hw : s.wait = 7 := BitVec.eq_of_toNat_eq hw;
       have hw : s.wait = 6 := BitVec.eq_of_toNat_eq hw; have hw : s.wait = 5 := BitVec.eq_of_toNat_eq hw;
       have hw : s.wait = 4 := BitVec.eq_of_toNat_eq hw; have hw : s.wait = 3 := BitVec.eq_of_toNat_eq hw;
       have hw : s.wait = 2 := BitVec.eq_of_toNat_eq hw; have hw : s.wait = 1 := BitVec.eq_of_toNat_eq hw;
       skip] <;> simp_all
  · split at h
    · unfold State.pushPayload at h
      split at h
      · injection h with h
        simp_all
      · cases h
    · cases h

/-- In a state that meets the invariants a byte is always taken (R141). -/
theorem push_total {b : Byte} {s : State} (hi : Inv s) : ∃ t, s.push b = .next t := by
  unfold State.push
  cases hst : s.st <;> simp only
  · exact ⟨_, rfl⟩
  · have := hi.hdr_open hst
    unfold State.pushHeader
    have h : s.wait.toNat = 1 ∨ s.wait.toNat = 2 ∨ s.wait.toNat = 3 ∨ s.wait.toNat = 4 ∨ s.wait.toNat = 5 ∨
      s.wait.toNat = 6 ∨ s.wait.toNat = 7 ∨ s.wait.toNat = 8 := by omega
    rcases h with h|h|h|h|h|h|h|h <;> rw [h] <;> exact ⟨_, rfl⟩
  · have := hi.pay_open hst
    have h1 : s.payloadOpen = true := by simp [State.payloadOpen]; omega
    have h2 : s.payloadIndex < s.cfg.maxSizeCeiling.toNat := by
      unfold State.payloadIndex; rw [BitVec.toNat_sub_of_le (by rw [BitVec.le_def]; omega)]; omega
    rw [if_pos h1]; unfold State.pushPayload; rw [if_pos h2]; exact ⟨_, rfl⟩

/-- What one pushed byte never changes, how it reports, and the one cell it may write (R57, R171, R178). -/
theorem push_frame {b : Byte} {s t : State} (h : s.push b = .next t) :
    t.cfg = s.cfg ∧ t.inputs = s.inputs ∧ t.out = s.out ∧ t.maxSize = s.maxSize ∧
    ((t.evValid = false ∧ t.events = s.events) ∨ (t.evValid = true ∧ t.events = s.events ++ [t.eventValue t.evKind])) ∧
    (∀ a, t.pbRead a = if s.st = .pay ∧ a = s.payloadIndex then b else s.pbRead a) := by
  rcases push_cases h with ⟨hst, hc, rfl⟩ | ⟨hst, hc, rfl⟩ | ⟨hst, hw, rfl⟩ | ⟨hst, hw, rfl⟩ | ⟨hst, hw, rfl⟩ | ⟨hst, hw, rfl⟩ |
    ⟨hst, hw, rfl⟩ | ⟨hst, hw, rfl⟩ | ⟨hst, hw, rfl⟩ | ⟨hst, hw, rfl⟩ | ⟨hst, ho, hx, rfl⟩
  · refine ⟨rfl, rfl, rfl, rfl, .inl ⟨rfl, rfl⟩, fun a => by simp [hst]; rfl⟩
  · unfold State.pushSeekByte
    split
    · refine ⟨by simp, by simp, by simp, by simp, .inr ⟨by simp, by simp⟩, fun a => ?_⟩
      simp only [hst, reduceCtorEq, false_and, if_false]; simp only [State.pbRead, takeEvent_cfg, takeEvent_pbuf]
    · refine ⟨rfl, rfl, rfl, rfl, .inl ⟨rfl, rfl⟩, fun a => by simp [hst]; rfl⟩
  case _ => refine ⟨rfl, rfl, rfl, rfl, .inl ⟨rfl, rfl⟩, fun a => by simp [hst]; rfl⟩
  case _ => refine ⟨rfl, rfl, rfl, rfl, .inl ⟨rfl, rfl⟩, fun a => by simp [hst]; rfl⟩
  case _ => refine ⟨rfl, rfl, rfl, rfl, .inl ⟨rfl, rfl⟩, fun a => by simp [hst]; rfl⟩
  case _ => refine ⟨rfl, rfl, rfl, rfl, .inl ⟨rfl, rfl⟩, fun a => by simp [hst]; rfl⟩
  case _ => refine ⟨rfl, rfl, rfl, rfl, .inl ⟨rfl, rfl⟩, fun a => by simp [hst]; rfl⟩
  case _ => refine ⟨rfl, rfl, rfl, rfl, .inl ⟨rfl, rfl⟩, fun a => by simp [hst]; rfl⟩
  case _ => refine ⟨rfl, rfl, rfl, rfl, .inl ⟨rfl, rfl⟩, fun a => by simp [hst]; rfl⟩
  · unfold State.pushFmtLo State.endHeader
    split
    · refine ⟨by simp, by simp, by simp, by simp, .inr ⟨by simp, by simp⟩, fun a => ?_⟩
      simp only [hst, reduceCtorEq, false_and, if_false]; simp only [State.pbRead, takeEvent_cfg, takeEvent_pbuf, cover_cfg, cover_pbuf]
    · split
      · unfold State.complete
        refine ⟨by simp, by simp, by simp, by simp, .inr ⟨by simp, by simp⟩, fun a => ?_⟩
        simp only [hst, reduceCtorEq, false_and, if_false]; simp only [State.pbRead, takeEvent_cfg, takeEvent_pbuf, cover_cfg, cover_pbuf]
      · refine ⟨rfl, rfl, rfl, rfl, .inl ⟨rfl, rfl⟩, fun a => by simp [hst]; rfl⟩
  · have hp : ∀ a, ((s.pbWrite s.payloadIndex b).cover b).pbRead a = if s.st = .pay ∧ a = s.payloadIndex then b else s.pbRead a := by
      intro a
      simp only [State.pbRead, cover_cfg, pbWrite_cfg, cover_pbuf, pbWrite_pbuf, lookup_store, hst, true_and]
      by_cases h : a = s.payloadIndex
      · subst h; simp [hx]
      · simp [h]
    unfold State.endPayload
    split
    · unfold State.complete
      refine ⟨by simp, by simp, by simp, by simp, .inr ⟨by simp, by simp⟩, fun a => ?_⟩
      rw [← hp a]; simp only [State.pbRead, takeEvent_cfg, takeEvent_pbuf]
    · refine ⟨rfl, rfl, rfl, rfl, .inl ⟨rfl, rfl⟩, fun a => ?_⟩
      rw [← hp a]; rfl

theorem push_seek {b : Byte} {s : State} (hst : s.st = .seek) (hc : candidate s.win b ≠ sentinel) :
    s.push b = .next (s.pushSeekByte b) := by
  unfold State.push; simp only [hst]; rw [if_neg hc]

theorem push_seek_match {b : Byte} {s : State} (hst : s.st = .seek) (hc : candidate s.win b = sentinel) :
   s.push b = .next s.pushSentinel := by
  unfold State.push; rw [hst]; simp only; rw [if_pos hc]

theorem push_pay {b : Byte} {s : State} (hst : s.st = .pay) (ho : s.payloadOpen = true)
    (hx : s.payloadIndex < s.cfg.maxSizeCeiling.toNat) :
    s.push b = .next ((s.pbWrite s.payloadIndex b).cover b).endPayload := by
  unfold State.push; simp only [hst]; rw [if_pos ho]; unfold State.pushPayload; rw [if_pos hx]

theorem push_hdr8 {b : Byte} {s : State} (hst : s.st = .hdr) (hw : s.wait = 8) : s.push b = .next (s.pushSizeHi b) := by
  unfold State.push; rw [hst]; simp [State.pushHeader, hw]

theorem push_hdr7 {b : Byte} {s : State} (hst : s.st = .hdr) (hw : s.wait = 7) : s.push b = .next (s.pushSizeLo b) := by
  unfold State.push; rw [hst]; simp [State.pushHeader, hw]

theorem push_hdr6 {b : Byte} {s : State} (hst : s.st = .hdr) (hw : s.wait = 6) : s.push b = .next (s.pushCrcLo b) := by
  unfold State.push; rw [hst]; simp [State.pushHeader, hw]

theorem push_hdr5 {b : Byte} {s : State} (hst : s.st = .hdr) (hw : s.wait = 5) : s.push b = .next (s.pushCrcHi b) := by
  unfold State.push; rw [hst]; simp [State.pushHeader, hw]

theorem push_hdr4 {b : Byte} {s : State} (hst : s.st = .hdr) (hw : s.wait = 4) : s.push b = .next (s.pushTypeHi b) := by
  unfold State.push; rw [hst]; simp [State.pushHeader, hw]

theorem push_hdr3 {b : Byte} {s : State} (hst : s.st = .hdr) (hw : s.wait = 3) : s.push b = .next (s.pushTypeLo b) := by
  unfold State.push; rw [hst]; simp [State.pushHeader, hw]

theorem push_hdr2 {b : Byte} {s : State} (hst : s.st = .hdr) (hw : s.wait = 2) : s.push b = .next (s.pushFmtHi b) := by
  unfold State.push; rw [hst]; simp [State.pushHeader, hw]

theorem push_hdr1 {b : Byte} {s : State} (hst : s.st = .hdr) (hw : s.wait = 1) : s.push b = .next (s.pushFmtLo b) := by
  unfold State.push; rw [hst]; simp [State.pushHeader, hw]

/-! ## The invariants -/

theorem fresh_event_inv {s t : State} (hi : Inv s) (hc : t.cfg = s.cfg) (hm : t.maxSize = s.maxSize) (hp : t.pbuf = s.pbuf)
    (k : EventKind) (hk : k ≠ .desyncNoise) :
    Inv (t.takeEvent k) := by
  obtain ⟨h1, h2, h3, h4⟩ := takeEvent_fresh k t hk
  refine ⟨?_, ?_, ?_, ?_, ?_, ?_, ?_, ?_⟩
  · simpa [hc] using hi.cfg_legal
  · intro _; simp [h2, h3, h4, windowFill]
  · simp [h1]
  · simp [h1]
  · simpa [hc, hm] using hi.max_size_clamped
  · simpa [hp] using hi.pbuf_sorted
  · simpa [hp, hc] using hi.pbuf_within
  · intro _; simp [h1, h2, h3, hk]

theorem hdr_inv {s t : State} (hi : Inv s) (hst : s.st = .hdr) (hw : 2 ≤ s.wait.toNat)
  (h1 : t.st = .hdr) (h2 : t.wait = s.wait - 1) (h3 : t.win = s.win) (h4 : t.seekCnt = s.seekCnt) (h5 : t.cfg = s.cfg)
  (h6 : t.maxSize = s.maxSize) (h7 : t.pbuf = s.pbuf) (h8 : t.evValid = false) : Inv t := by
  have hh := hi.hdr_open hst
  have : t.wait.toNat = s.wait.toNat - 1 := by rw [h2, BitVec.toNat_sub_of_le (by rw [BitVec.le_def]; simpa using hh.1)]; rfl
  refine ⟨?_, ?_, ?_, ?_, ?_, ?_, ?_, ?_⟩
  · simpa [h5] using hi.cfg_legal
  · simp [h1]
  · intro _; rw [h3, h4]; refine ⟨by omega, by omega, hh.2.2⟩
  · simp [h1]
  · simpa [h5, h6] using hi.max_size_clamped
  · simpa [h7] using hi.pbuf_sorted
  · simpa [h7, h5] using hi.pbuf_within
  · simp [h8]

/-- One pushed byte keeps the invariants (R40). -/
theorem push_inv {b : Byte} {s t : State} (hi : Inv s) (h : s.push b = .next t) : Inv t := by
  rcases push_cases h with ⟨hst, hc, rfl⟩ | ⟨hst, hc, rfl⟩ | ⟨hst, hw, rfl⟩ | ⟨hst, hw, rfl⟩ | ⟨hst, hw, rfl⟩ | ⟨hst, hw, rfl⟩ |
    ⟨hst, hw, rfl⟩ | ⟨hst, hw, rfl⟩ | ⟨hst, hw, rfl⟩ | ⟨hst, hw, rfl⟩ | ⟨hst, ho, hx, rfl⟩
  · refine ⟨?_, ?_, ?_, ?_, ?_, ?_, ?_, ?_⟩
    · simpa using hi.cfg_legal
    · simp
    · simp
    · simp
    · simpa using hi.max_size_clamped
    · simpa using hi.pbuf_sorted
    · simpa using hi.pbuf_within
    · simp
  · have hs := hi.seek_parked hst
    have hl := hi.cfg_legal
    have hb := b.isLt
    unfold State.pushSeekByte
    split
    · rename_i hcnt
      refine ⟨?_, ?_, ?_, ?_, ?_, ?_, ?_, ?_⟩
      · simpa using hi.cfg_legal
      · intro _; simp [takeEvent_desync, windowFill, hs.1]; have := hl.1; omega
      · simp [takeEvent_desync, hst]
      · simp [takeEvent_desync, hst]
      · simpa using hi.max_size_clamped
      · simpa using hi.pbuf_sorted
      · simpa using hi.pbuf_within
      · simp [takeEvent_desync, hst]
    · rename_i hcnt
      have hc : (s.seekCnt + 1).toNat = s.seekCnt.toNat + 1 := by
        rw [BitVec.toNat_add]; have := hl.2; simp; omega
      refine ⟨?_, ?_, ?_, ?_, ?_, ?_, ?_, ?_⟩
      · simpa using hi.cfg_legal
      · intro _
        have hw := hs.2.2
        simp only [quiet_wait, quiet_seekCnt, quiet_cfg, quiet_win, windowFill, hc, shiftWindow_toNat] at hw ⊢
        refine ⟨hs.1, by omega, ?_, ?_, ?_⟩ <;> intro <;> omega
      · simp [hst]
      · simp [hst]
      · simpa using hi.max_size_clamped
      · simpa using hi.pbuf_sorted
      · simpa using hi.pbuf_within
      · simp
  case _ => exact hdr_inv hi hst (by simp [hw]) hst rfl rfl rfl rfl rfl rfl rfl
  case _ => exact hdr_inv hi hst (by simp [hw]) hst rfl rfl rfl rfl rfl rfl rfl
  case _ => exact hdr_inv hi hst (by simp [hw]) hst rfl rfl rfl rfl rfl rfl rfl
  case _ => exact hdr_inv hi hst (by simp [hw]) hst rfl rfl rfl rfl rfl rfl rfl
  case _ => exact hdr_inv hi hst (by simp [hw]) hst rfl rfl rfl rfl rfl rfl rfl
  case _ => exact hdr_inv hi hst (by simp [hw]) hst rfl rfl rfl rfl rfl rfl rfl
  case _ => exact hdr_inv hi hst (by simp [hw]) hst rfl rfl rfl rfl rfl rfl rfl
  · unfold State.pushFmtLo State.endHeader
    have hh := hi.hdr_open hst
    split
    · refine fresh_event_inv hi ?_ ?_ ?_ .sizeOutOfBounds (by simp) <;> rfl
    · rename_i hm
      split
      · unfold State.complete; refine fresh_event_inv hi ?_ ?_ ?_ _ (verdict_ne_desync _ _) <;> rfl
      · rename_i hz
        simp only [cover_maxSize, cover_size, BitVec.lt_def, Nat.not_lt] at hm hz
        have hz' : s.size.toNat ≠ 0 := fun e => hz (BitVec.eq_of_toNat_eq e)
        refine ⟨?_, ?_, ?_, ?_, ?_, ?_, ?_, ?_⟩
        · simpa using hi.cfg_legal
        · simp
        · simp
        · intro _; simp [hh]; have := hi.max_size_clamped; omega
        · simpa using hi.max_size_clamped
        · simpa using hi.pbuf_sorted
        · simpa using hi.pbuf_within
        · simp
  · have hp := hi.pay_open hst
    have hI : Inv (s.pbWrite s.payloadIndex b) := by
      refine ⟨hi.cfg_legal, hi.seek_parked, hi.hdr_open, hi.pay_open, hi.max_size_clamped, wf_store _ _ _ hi.pbuf_sorted,
        within_store _ _ _ _ hi.pbuf_within hx, hi.event_cycle⟩
    unfold State.endPayload
    split
    · unfold State.complete; refine fresh_event_inv hI ?_ ?_ ?_ _ (verdict_ne_desync _ _) <;> rfl
    · rename_i hw
      have hw' : s.wait.toNat ≠ 1 := fun e => hw (BitVec.eq_of_toNat_eq e)
      have hc : (s.wait - 1).toNat = s.wait.toNat - 1 := by rw [BitVec.toNat_sub_of_le (by rw [BitVec.le_def]; simpa using hp.1)]; rfl
      refine ⟨hI.cfg_legal, ?_, ?_, ?_, hI.max_size_clamped, hI.pbuf_sorted, hI.pbuf_within, ?_⟩
      · simp [hst]
      · simp [hst]
      · intro _; simp only [countDown_wait, cover_wait, pbWrite_wait, hc]; simp [hp.2.2.2]; omega
      · simp

/-! ## The step -/

/-- The read row of an address shows the selected register (R155). -/
theorem exec_decodeCsrRead (a : CsrAddr) (s : State) : exec (decodeCsrRead a) s = .next (s.showCsr (s.csr a)) := by
  unfold decodeCsrRead State.csr
  split <;> simp only [*, exec, execRdcsrMaxSize, execRdcsrStatus, execRdcsrSize, execRdcsrCrcRx, execRdcsrMsgType, execRdcsrFormat,
     execRdcsrWait, execRdcsrCrcAcc, execRdcsrSeekCnt, execRdcsrWinLo, execRdcsrWinHi, execRdcsrReserved, State.csr] <;> rfl

/-- RDPB shows the selected cell (R156). -/
theorem exec_rdpb (p : Half) (s : State) : exec (.rdpb p) s = .next (s.showPb (s.pbRead p.toNat)) := rfl

/-- The two reads of a cycle, then its operation. -/
theorem cycle_eq (i : Instr) (r : InputRecord) (s : State) :
    cycle i r s = exec i ((s.showCsr (s.csr r.csrAddr)).showPb (s.pbRead r.pbRaddr.toNat)) := by
  unfold cycle
  rw [exec_decodeCsrRead]
  simp only [andThen]
  rw [exec_rdpb]
  rfl

/-- The outputs of a cycle, once both reads have delivered (R12). -/
theorem beginCycle_reads (s : State) (a : CsrAddr) (p : Half) :
    (s.beginCycle.showCsr (s.csr a)).showPb (s.pbRead p.toNat)
      = { s with inputs := s.inputs.tail, out := s.outputs a p } := by
  simp only [State.beginCycle, State.showCsr, State.showPb, State.outputs]

/-- The row that the sub-decode selects does what the pushed byte does (R86, R120). -/
theorem exec_decodePush {s : State} {b : Byte} {i : Instr} {t : State} (h : decodePush s.context b = .ok i) :
    exec i s = .next t ↔ s.push b = .next t := by
  unfold decodePush State.context at h
  unfold State.push
  cases hst : s.st <;> rw [hst] at h <;> simp only at h ⊢
  · injection h with h
    unfold decodePushSeek at h
    split at h <;> subst h <;> simp [exec, execPushSeek, execPushSeekMatch, whenSelected, *]
  · unfold decodePushHdr at h
    unfold State.pushHeader
    split at h <;> rename_i hw
    case h_9 => cases h
    all_goals
      injection h with h
      subst h
      first
        | have hw : s.wait = 8 := BitVec.eq_of_toNat_eq hw
          simp [exec, execPushHdrSizeHi, whenSelected, State.atHeader, hst, hw]
        | have hw : s.wait = 7 := BitVec.eq_of_toNat_eq hw
          simp [exec, execPushHdrSizeLo, whenSelected, State.atHeader, hst, hw]
        | have hw : s.wait = 6 := BitVec.eq_of_toNat_eq hw
          simp [exec, execPushHdrCrcLo, whenSelected, State.atHeader, hst, hw]
        | have hw : s.wait = 5 := BitVec.eq_of_toNat_eq hw
          simp [exec, execPushHdrCrcHi, whenSelected, State.atHeader, hst, hw]
        | have hw : s.wait = 4 := BitVec.eq_of_toNat_eq hw
          simp [exec, execPushHdrTypeHi, whenSelected, State.atHeader, hst, hw]
        | have hw : s.wait = 3 := BitVec.eq_of_toNat_eq hw
          simp [exec, execPushHdrTypeLo, whenSelected, State.atHeader, hst, hw]
        | have hw : s.wait = 2 := BitVec.eq_of_toNat_eq hw
          simp [exec, execPushHdrFmtHi, whenSelected, State.atHeader, hst, hw]
        | have hw : s.wait = 1 := BitVec.eq_of_toNat_eq hw
          simp [exec, execPushHdrFmtLo, whenSelected, State.atHeader, hst, hw]
  · unfold decodePushPay at h
    split at h
    · cases h
    · injection h with h; subst h
      simp only [exec, execPushPay, whenSelected, hst]
      cases s.payloadOpen <;> simp

end Sys2Proof.Machine
end

