-- ==== Sys2Proof/Laws/PerInstr.lean ====
section
/-! SUPPORT. A fact about every instruction as syntax: its encoding has the form of its row in the opcode table
(spec/30_encoding.md R95). -/

namespace Sys2Proof

/-- The six formats of the table's rows (R95). -/
inductive RowFormat where
  | cmd
  | read
  | frame
  | format16
  | event
  | pseudo
  deriving DecidableEq, Repr

/-- The format of an instruction's row (R95). -/
def Instr.format : Instr → RowFormat
  | .reset => .cmd
  | .nop => .cmd
  | .wrcsrMaxSize _ => .cmd
  | .wrcsrIgnored _ _ => .cmd
  | .pushWrcsr _ _ _ => .cmd
  | .pushSeek _ => .cmd
  | .pushSeekMatch _ => .cmd
  | .pushHdrSizeHi _ => .cmd
  | .pushHdrSizeLo _ => .cmd
  | .pushHdrCrcLo _ => .cmd
  | .pushHdrCrcHi _ => .cmd
  | .pushHdrTypeHi _ => .cmd
  | .pushHdrTypeLo _ => .cmd
  | .pushHdrFmtHi _ => .cmd
  | .pushHdrFmtLo _ => .cmd
  | .pushPay _ => .cmd
  | .rdcsr _ => .read
  | .rdcsrMaxSize => .read
  | .rdcsrStatus => .read
  | .rdcsrSize => .read
  | .rdcsrCrcRx => .read
  | .rdcsrMsgType => .read
  | .rdcsrFormat => .read
  | .rdcsrWait => .read
  | .rdcsrCrcAcc => .read
  | .rdcsrSeekCnt => .read
  | .rdcsrWinLo => .read
  | .rdcsrWinHi => .read
  | .rdcsrReserved _ => .read
  | .rdpb _ => .read
  | .frame _ _ _ _ _ => .frame
  | .frameKeepalive _ _ _ _ => .frame
  | .framePositionReport _ _ _ _ => .frame
  | .frameAck _ _ _ _ => .frame
  | .frameNack _ _ _ _ => .frame
  | .frameDeviceCmd _ _ _ _ _ => .frame
  | .frameLegacySetup _ _ _ _ _ => .frame
  | .frameLifetimeHint1 _ _ _ _ => .frame
  | .frameLifetimeHint2 _ _ _ _ => .frame
  | .frameUnlisted _ _ _ _ _ => .frame
  | .format16 _ => .format16
  | .evFrameReady => .event
  | .evSizeOutOfBounds => .event
  | .evChecksumMismatch => .event
  | .evDesyncNoise => .event
  | .idle _ => .pseudo
  | .feed _ => .pseudo
  | .framePseudo _ _ _ => .pseudo
  | .frameForced _ _ _ _ => .pseudo

/-- Whether an encoded object is one that a row of the format has; a frame begins with the sentinel and has a whole
fixed region (R70); a pseudo-operation is written as command words (R92 to R94). -/
def Encoded.fits : RowFormat → Encoded → Bool
  | .cmd, .command _ => true
  | .read, .csrRead _ => true
  | .read, .pbRead _ => true
  | .frame, .frame bytes => decide (bytes.take 4 = Machine.sentinelBytes ∧ 12 ≤ bytes.length)
  | .format16, .formatWord _ => true
  | .event, .event _ => true
  | .pseudo, .command _ => true
  | _, _ => false

/-- The encoding has the form of the instruction's row, and but for a pseudo-operation it is one object. -/
def Laws.EncodingForm.Statement (i : Instr) : Prop :=
  (encode i).all (Encoded.fits i.format) = true ∧ (i.isPseudo = false → (encode i).length = 1)

namespace Laws.EncodingForm

-- forty-nine one-line lemmas: elaborated one after the other, so that they do not ask for a thread each
set_option Elab.async false

/-- A frame row's bytes, whatever its fields. -/
theorem frame_fits (size crc t f : Half) (data : List Byte) :
    Encoded.fits .frame (.frame (Machine.frameBytes size crc t f data)) = true := by
  simp [Encoded.fits, Machine.frameBytes, Machine.sentinelBytes, Machine.coveredBytes]

theorem reset : Statement (.reset) := ⟨rfl, fun _ => rfl⟩
theorem nop : Statement (.nop) := ⟨rfl, fun _ => rfl⟩
theorem wrcsrMaxSize (v : Half) : Statement (.wrcsrMaxSize v) := ⟨rfl, fun _ => rfl⟩
theorem wrcsrIgnored (a : CsrAddr) (v : Half) : Statement (.wrcsrIgnored a v) := ⟨rfl, fun _ => rfl⟩
theorem pushWrcsr (a : CsrAddr) (v : Half) (b : Byte) : Statement (.pushWrcsr a v b) := ⟨rfl, fun _ => rfl⟩
theorem pushSeek (b : Byte) : Statement (.pushSeek b) := ⟨rfl, fun _ => rfl⟩
theorem pushSeekMatch (b : Byte) : Statement (.pushSeekMatch b) := ⟨rfl, fun _ => rfl⟩
theorem pushHdrSizeHi (b : Byte) : Statement (.pushHdrSizeHi b) := ⟨rfl, fun _ => rfl⟩
theorem pushHdrSizeLo (b : Byte) : Statement (.pushHdrSizeLo b) := ⟨rfl, fun _ => rfl⟩
theorem pushHdrCrcLo (b : Byte) : Statement (.pushHdrCrcLo b) := ⟨rfl, fun _ => rfl⟩
theorem pushHdrCrcHi (b : Byte) : Statement (.pushHdrCrcHi b) := ⟨rfl, fun _ => rfl⟩
theorem pushHdrTypeHi (b : Byte) : Statement (.pushHdrTypeHi b) := ⟨rfl, fun _ => rfl⟩
theorem pushHdrTypeLo (b : Byte) : Statement (.pushHdrTypeLo b) := ⟨rfl, fun _ => rfl⟩
theorem pushHdrFmtHi (b : Byte) : Statement (.pushHdrFmtHi b) := ⟨rfl, fun _ => rfl⟩
theorem pushHdrFmtLo (b : Byte) : Statement (.pushHdrFmtLo b) := ⟨rfl, fun _ => rfl⟩
theorem pushPay (b : Byte) : Statement (.pushPay b) := ⟨rfl, fun _ => rfl⟩
theorem rdcsr (a : CsrAddr) : Statement (.rdcsr a) := ⟨rfl, fun _ => rfl⟩
theorem rdcsrMaxSize : Statement (.rdcsrMaxSize) := ⟨rfl, fun _ => rfl⟩
theorem rdcsrStatus : Statement (.rdcsrStatus) := ⟨rfl, fun _ => rfl⟩
theorem rdcsrSize : Statement (.rdcsrSize) := ⟨rfl, fun _ => rfl⟩
theorem rdcsrCrcRx : Statement (.rdcsrCrcRx) := ⟨rfl, fun _ => rfl⟩
theorem rdcsrMsgType : Statement (.rdcsrMsgType) := ⟨rfl, fun _ => rfl⟩
theorem rdcsrFormat : Statement (.rdcsrFormat) := ⟨rfl, fun _ => rfl⟩
theorem rdcsrWait : Statement (.rdcsrWait) := ⟨rfl, fun _ => rfl⟩
theorem rdcsrCrcAcc : Statement (.rdcsrCrcAcc) := ⟨rfl, fun _ => rfl⟩
theorem rdcsrSeekCnt : Statement (.rdcsrSeekCnt) := ⟨rfl, fun _ => rfl⟩
theorem rdcsrWinLo : Statement (.rdcsrWinLo) := ⟨rfl, fun _ => rfl⟩
theorem rdcsrWinHi : Statement (.rdcsrWinHi) := ⟨rfl, fun _ => rfl⟩
theorem rdcsrReserved (a : CsrAddr) : Statement (.rdcsrReserved a) := ⟨rfl, fun _ => rfl⟩
theorem rdpb (p : Half) : Statement (.rdpb p) := ⟨rfl, fun _ => rfl⟩
theorem frame (size crc msgType format : Half) (data : List Byte) : Statement (.frame size crc msgType format data) :=
  ⟨by rw [encode, List.all_cons, Instr.format, frame_fits]; rfl, fun _ => rfl⟩
theorem frameKeepalive (size crc format : Half) (data : List Byte) : Statement (.frameKeepalive size crc format data) :=
  ⟨by rw [encode, List.all_cons, Instr.format, frame_fits]; rfl, fun _ => rfl⟩
theorem framePositionReport (size crc format : Half) (data : List Byte) : Statement (.framePositionReport size crc format data) :=
  ⟨by rw [encode, List.all_cons, Instr.format, frame_fits]; rfl, fun _ => rfl⟩
theorem frameAck (size crc format : Half) (data : List Byte) : Statement (.frameAck size crc format data) :=
  ⟨by rw [encode, List.all_cons, Instr.format, frame_fits]; rfl, fun _ => rfl⟩
theorem frameNack (size crc format : Half) (data : List Byte) : Statement (.frameNack size crc format data) :=
  ⟨by rw [encode, List.all_cons, Instr.format, frame_fits]; rfl, fun _ => rfl⟩
theorem frameDeviceCmd (size crc msgType format : Half) (data : List Byte) : Statement (.frameDeviceCmd size crc msgType format data) :=
  ⟨by rw [encode, List.all_cons, Instr.format, frame_fits]; rfl, fun _ => rfl⟩
theorem frameLegacySetup (size crc msgType format : Half) (data : List Byte) : Statement (.frameLegacySetup size crc msgType format data) :=
  ⟨by rw [encode, List.all_cons, Instr.format, frame_fits]; rfl, fun _ => rfl⟩
theorem frameLifetimeHint1 (size crc format : Half) (data : List Byte) : Statement (.frameLifetimeHint1 size crc format data) :=
  ⟨by rw [encode, List.all_cons, Instr.format, frame_fits]; rfl, fun _ => rfl⟩
theorem frameLifetimeHint2 (size crc format : Half) (data : List Byte) : Statement (.frameLifetimeHint2 size crc format data) :=
  ⟨by rw [encode, List.all_cons, Instr.format, frame_fits]; rfl, fun _ => rfl⟩
theorem frameUnlisted (size crc msgType format : Half) (data : List Byte) : Statement (.frameUnlisted size crc msgType format data) :=
  ⟨by rw [encode, List.all_cons, Instr.format, frame_fits]; rfl, fun _ => rfl⟩
theorem format16 (f : Half) : Statement (.format16 f) := ⟨rfl, fun _ => rfl⟩
theorem evFrameReady : Statement (.evFrameReady) := ⟨rfl, fun _ => rfl⟩
theorem evSizeOutOfBounds : Statement (.evSizeOutOfBounds) := ⟨rfl, fun _ => rfl⟩
theorem evChecksumMismatch : Statement (.evChecksumMismatch) := ⟨rfl, fun _ => rfl⟩
theorem evDesyncNoise : Statement (.evDesyncNoise) := ⟨rfl, fun _ => rfl⟩
theorem idle (n : Nat) : Statement (.idle n) :=
  ⟨by simp [encode, Instr.format, Encoded.fits], by simp [Instr.isPseudo]⟩
theorem feed (bytes : List Byte) : Statement (.feed bytes) :=
  ⟨by simp [encode, Instr.format, Encoded.fits], by simp [Instr.isPseudo]⟩
theorem framePseudo (msgType format : Half) (data : List Byte) : Statement (.framePseudo msgType format data) :=
  ⟨by simp [encode, Instr.format, Encoded.fits], by simp [Instr.isPseudo]⟩
theorem frameForced (msgType format : Half) (data : List Byte) (crc : Half) : Statement (.frameForced msgType format data crc) :=
  ⟨by simp [encode, Instr.format, Encoded.fits], by simp [Instr.isPseudo]⟩

end Laws.EncodingForm

end Sys2Proof
end

