-- ==== Sys2Proof/Laws/Stream.lean ====
section
/-! SUPPORT. Bytes in sequence: FEED of a concatenation (spec/30_encoding.md R93), the sentinel and the fixed region
of a frame (R70), its payload (R133) and noise (R122). -/

namespace Sys2Proof.Machine

theorem feed_cons (b : Byte) (bs : List Byte) (s : State) : feedBytes (b :: bs) s = andThen (s.push b) (feedBytes bs) := rfl

theorem feed_next {b : Byte} {bs : List Byte} {s t : State} (h : s.push b = .next t) : feedBytes (b :: bs) s = feedBytes bs t := by
  rw [feed_cons, h]; rfl

theorem feed_append (xs ys : List Byte) (s : State) : feedBytes (xs ++ ys) s = andThen (feedBytes xs s) (feedBytes ys) := by
  induction xs generalizing s with
  | nil => rfl
  | cons x xs ih =>
    simp only [List.cons_append, feed_cons]
    cases s.push x <;> simp [andThen, ih]

theorem push_seek_nomatch {b : Byte} {s : State} (hst : s.st = .seek) (hc : candidate s.win b ≠ sentinel)
    (hn : s.seekCnt.toNat + 1 ≤ s.cfg.scanCeiling.toNat) :
    s.push b = .next { s with win := shiftWindow s.win b, seekCnt := s.seekCnt + 1, evValid := false } := by
  unfold State.push; rw [hst]; simp only; rw [if_neg hc]
  unfold State.pushSeekByte; rw [if_neg (by omega)]; simp only [State.quiet, hst]

/-- The sentinel, from a fresh Seeking (R123). -/
theorem feed_sentinel {s : State} (hf : s.FreshSeek) (hl : s.cfg.Legal) (bs : List Byte) :
    feedBytes (sentinelBytes ++ bs) s = feedBytes bs s.pushSentinel := by
  obtain ⟨h1, h2, h3, h4⟩ := hf
  have hl := hl.1
  show feedBytes (0xAA :: 0x55 :: 0xAA :: 0x55 :: bs) s = _
  rw [feed_next (push_seek_nomatch h1 (by rw [h2]; decide) (by rw [h3]; simp; omega))]
  rw [feed_next (push_seek_nomatch (by exact h1) (by simp only [h2]; decide) (by simp only [h3]; simp; omega))]
  rw [feed_next (push_seek_nomatch (by exact h1) (by simp only [h2]; decide) (by simp only [h3]; simp; omega))]
  rw [feed_next (push_seek_match (by exact h1) (by simp only [h2]; decide))]
  rfl

/-- The state with a fixed region loaded and its last byte not yet decided (R132). -/
def State.headerLoaded (size crc t f : Half) (s : State) : State :=
  { s with st := .hdr, win := 0, seekCnt := 0, wait := 1, size := size, crcRx := crc, msgType := t, format := f,
           crcAcc := crc16 (coveredBytes t f []), evValid := false }

/-- The fixed region of a frame, from a fresh Seeking (R70, R125 to R132). -/
theorem feed_frame {size crc t f : Half} {data : List Byte} {s : State} (hf : s.FreshSeek) (hl : s.cfg.Legal) :
    feedBytes (frameBytes size crc t f data) s = feedBytes data (s.headerLoaded size crc t f).endHeader := by
  unfold frameBytes
  rw [feed_sentinel hf hl]
  unfold coveredBytes
  rw [feed_next (push_hdr8 rfl rfl)]
  rw [feed_next (push_hdr7 rfl (by simp))]
  rw [feed_next (push_hdr6 rfl (by simp))]
  rw [feed_next (push_hdr5 rfl (by simp))]
  rw [feed_next (push_hdr4 rfl (by simp))]
  rw [feed_next (push_hdr3 rfl (by simp))]
  rw [feed_next (push_hdr2 rfl (by simp))]
  rw [feed_next (push_hdr1 rfl (by simp))]
  congr 1
  unfold State.pushFmtLo
  congr 1
  simp only [State.pushSizeHi, State.pushSizeLo, State.pushCrcLo, State.pushCrcHi, State.pushTypeHi, State.pushTypeLo,
    State.pushFmtHi, State.pushSentinel, State.countDown, State.quiet, State.cover, State.headerLoaded,
    State.mk.injEq, setLo_setHi, setHi_setLo, half_hi_lo, true_and, and_true]
  refine ⟨by simp [fixedRest], ?_⟩
  rw [crc16_eq]; rfl

/-- The buffer after consecutive cells have been written (R133). -/
def Memory.storeAll (m : Memory) (a : Nat) : List Byte → Memory
  | [] => m
  | b :: bs => Memory.storeAll (Memory.store m a b) (a + 1) bs

theorem lookup_storeAll (bs : List Byte) (m : Memory) (a x : Nat) :
   Memory.lookup (Memory.storeAll m a bs) x = if a ≤ x ∧ x < a + bs.length then bs[x - a]? else Memory.lookup m x := by
  induction bs generalizing m a with
  | nil => simp [Memory.storeAll]
  | cons b bs ih =>
    simp only [Memory.storeAll, ih, lookup_store, List.length_cons]
    by_cases h : x = a
    · subst h; simp
    · by_cases h2 : a ≤ x ∧ x < a + (bs.length + 1)
      · rw [if_pos (by omega), if_pos h2]
        have : x - a = (x - (a+1)) + 1 := by omega
        rw [this]; simp
      · rw [if_neg (by omega), if_neg h2, if_neg h]

theorem verdict_congr (c r : Half) {s t : State} (h : ∃ w v x, s = { t with wait := w, evValid := v, st := x }) :
   s.takeEvent (verdict c r) = t.takeEvent (verdict c r) := by
  obtain ⟨w, v, x, rfl⟩ := h
  unfold verdict; split <;> rfl

/-- The state a payload ends in (R134). -/
def State.payloadDone (s : State) (m : Memory) (c : Half) : State := State.complete c { s with pbuf := m, crcAcc := c }

/-- The payload of a frame (R133, R134). -/
theorem feed_payload (bs : List Byte) (s : State) (hst : s.st = .pay) (h1 : 1 ≤ s.wait.toNat)
    (h2 : s.wait.toNat ≤ s.size.toNat) (h3 : s.size.toNat ≤ s.cfg.maxSizeCeiling.toNat) (hl : bs.length = s.wait.toNat) :
    feedBytes bs s = .next (State.payloadDone s
      (Memory.storeAll s.pbuf (s.size.toNat - s.wait.toNat) bs) (crcRun s.crcAcc bs)) := by
  induction bs generalizing s with
  | nil => simp at hl; omega
  | cons b bs ih =>
    have hx : s.payloadIndex = s.size.toNat - s.wait.toNat := by
      unfold State.payloadIndex; rw [BitVec.toNat_sub_of_le (by rw [BitVec.le_def]; omega)]
    have hp : s.push b = .next ((s.pbWrite s.payloadIndex b).cover b).endPayload := by
      unfold State.push; rw [hst]; simp only
      rw [if_pos (by simp [State.payloadOpen]; omega)]
      unfold State.pushPayload
      rw [if_pos (by rw [hx]; omega)]
    rw [feed_next hp]
    unfold State.endPayload
    by_cases hw : s.wait = 1
    · simp only [cover_wait, pbWrite_wait, hw, if_true]
      have : bs = [] := by simpa [hw] using hl
      subst this
      simp only [feedBytes, State.payloadDone, State.complete, Memory.storeAll, crcRun, List.foldl]
      congr 1
      rw [hx, hw]
      exact verdict_congr _ _ ⟨1, s.evValid, s.st, by simp only [State.cover, State.pbWrite, hw]⟩
    · simp only [cover_wait, pbWrite_wait, hw, if_false]
      have hw' : s.wait.toNat ≠ 1 := fun e => hw (BitVec.eq_of_toNat_eq e)
      have hc : (s.wait - 1).toNat = s.wait.toNat - 1 := by
        rw [BitVec.toNat_sub_of_le (by rw [BitVec.le_def]; simpa using h1)]; rfl
      simp only [List.length_cons] at hl
      rw [ih _ (by simp [hst]) (by simp only [countDown_wait, cover_wait, pbWrite_wait, hc]; omega)
        (by simp only [countDown_wait, cover_wait, pbWrite_wait, hc, countDown_size, cover_size, pbWrite_size]; omega) (by simpa using h3)
        (by simp only [countDown_wait, cover_wait, pbWrite_wait, hc]; omega)]
      congr 1
      have e : s.size.toNat - (s.wait.toNat - 1) = s.size.toNat - s.wait.toNat + 1 := by omega
      simp only [countDown_wait, cover_wait, pbWrite_wait, hc, countDown_size, cover_size, pbWrite_size, e,
        countDown_pbuf, cover_pbuf, pbWrite_pbuf, hx, Memory.storeAll, countDown_crcAcc, cover_crcAcc, pbWrite_crcAcc, crcRun, List.foldl, State.payloadDone, State.complete]
      simp only [countDown_crcRx, cover_crcRx, pbWrite_crcRx]
      exact verdict_congr _ _ ⟨s.wait - 1, false, s.st, rfl⟩

end Sys2Proof.Machine
end

