-- ==== Sys2Proof/Tests/Slice0.lean ====
section
/-! SUPPORT. The model's own tests: the well-formedness smoke test, a word written out by hand for every row that has
an encoding, one-step tests against the vectors of spec/95_test_vectors.md, and for every statement with hypotheses a
concrete state and operands that meet them. -/

namespace Sys2Proof.Tests

open Machine

-- many small theorems: elaborated one after the other, so that they do not ask for a thread each
set_option Elab.async false

/-! ## Helpers -/

/-- The parameters the vectors assume unless they say otherwise (spec/95_test_vectors.md, Conventions). -/
def base : State := { State.reset with cfg := { maxSizeCeiling := 65535, scanCeiling := 256 }, maxSize := 0xFFFF }

/-- An instance with the ceilings given, right after reset. -/
def sized (ceiling scan : Half) : State :=
  { State.reset with cfg := { maxSizeCeiling := ceiling, scanCeiling := scan }, maxSize := ceiling }

/-- In HeaderFound with the header byte of this WAIT next. -/
def inHeader (wait size : Half) : State := { sized 16 8 with st := .hdr, wait := wait, size := size }

/-- In AwaitingPayload, V1's frame half received. -/
def inPayload (wait size : Half) : State :=
  { sized 16 8 with st := .pay, wait := wait, size := size, crcRx := 0xB787, msgType := 0x0001, crcAcc := 0x55CB }

/-- In Seeking after these many counted bytes with this window. -/
def inSeek (cnt : Half) (win : Window) : State := { sized 16 8 with seekCnt := cnt, win := win }

/-- What a test looks at in the next state. -/
def seen {α : Type} (o : Result) (f : State → α) : Option α :=
  match o with
  | .next t => some (f t)
  | .fault _ => none
  | .refused _ => none

/-- The stop an operation answers, if it stops. -/
def stopped (o : Result) : Option (Fault ⊕ Refusal) :=
  match o with
  | .next _ => none
  | .fault r => some (.inl r)
  | .refused r => some (.inr r)

/-- What the decoder answers, none where it rejects. -/
def decoded (c : PushContext) (e : Encoded) : Option Instr := (decode c e).toOption

/-- The name the decoder rejects with. -/
def rejected (c : PushContext) (e : Encoded) : Option DecodeError :=
  match decode c e with
  | .ok _ => none
  | .error r => some r

/-- A command word in the reset context. -/
def commandRow (w : CommandWord) : Option Instr := decoded resetContext (.command w)

/-- A command word in HeaderFound. -/
def headerRow (wait : Half) (w : CommandWord) : Option Instr := decoded { st := .hdr, wait := wait, win := 0 } (.command w)

/-- A frame's bytes. -/
def frameRow (bytes : List Byte) : Option Instr := decoded resetContext (.frame bytes)

/-- The registers the vectors list: ST, WAIT, SEEK_CNT, WIN. -/
def scan (s : State) : Phase × Half × Half × Window := (s.st, s.wait, s.seekCnt, s.win)

/-! ## Ill-formed terms are refused -/

theorem test_wf_ignored_is_not_max_size : (Instr.wrcsrIgnored 0 5).wellFormed = false := by decide
theorem test_wf_match_is_55 : (Instr.pushSeekMatch 0xAA).wellFormed = false := by decide
theorem test_wf_reserved_from_b : (Instr.rdcsrReserved 0xA).wellFormed = false := by decide
theorem test_wf_size_is_length :
    ([.frame 1 0 0 0 [], .frameKeepalive 1 0 0 [], .framePositionReport 0 0 0 [1], .frameAck 1 0 0 [],
      .frameNack 2 0 0 [1], .frameDeviceCmd 1 0 4 0 [], .frameLegacySetup 1 0 0x106 0 [], .frameLifetimeHint1 1 0 0 [],
      .frameLifetimeHint2 1 0 0 [], .frameUnlisted 1 0 0x40 0 []] : List Instr).all (fun i => !i.wellFormed) = true := by
  decide
theorem test_wf_device_cmd_range :
    (Instr.frameDeviceCmd 0 0 0x0003 0 []).wellFormed = false ∧ (Instr.frameDeviceCmd 0 0 0x0040 0 []).wellFormed = false := by
  decide
theorem test_wf_legacy_range :
    (Instr.frameLegacySetup 0 0 0x0105 0 []).wellFormed = false ∧ (Instr.frameLegacySetup 0 0 0x010C 0 []).wellFormed = false := by
  decide
theorem test_wf_unlisted_is_unlisted :
    ([0x0000, 0x0003, 0x0004, 0x003F, 0x0106, 0x010B, 0x0201, 0x0202] : List Half).all
      (fun t => !(Instr.frameUnlisted 0 0 t 0 []).wellFormed) = true := by decide
theorem test_wf_pseudo_length :
    (Instr.framePseudo 0 0 (List.replicate 65536 0)).wellFormed = false ∧
    (Instr.frameForced 0 0 (List.replicate 65536 0) 0).wellFormed = false := by
  have h : decide ((List.replicate 65536 (0 : Byte)).length ≤ 65535) = false := by rw [List.length_replicate]; decide
  exact ⟨h, h⟩

/-! ## Decoding: words written out from R84, R86, R35, R70, R76 and R87 -/

-- R84: rst is bit 30, in_valid 29, csr_we 28, csr_addr 27:24, csr_wdata 23:8, in_data 7:0
theorem test_decode_reset : commandRow 0x40000000 = some .reset := by decide
theorem test_decode_reset_wins : commandRow 0x7FFFFFFF = some .reset := by decide
theorem test_decode_nop : commandRow 0x05000000 = some .nop := by decide
-- V15
theorem test_decode_wrcsr_max_size : commandRow 0x10010000 = some (.wrcsrMaxSize 0x0100) := by decide
theorem test_decode_wrcsr_ignored : commandRow 0x1F123400 = some (.wrcsrIgnored 0xF 0x1234) := by decide
-- V16
theorem test_decode_push_wrcsr : commandRow 0x30004000 = some (.pushWrcsr 0x0 0x0040 0x00) := by decide
theorem test_decode_push_seek : commandRow 0x20000055 = some (.pushSeek 0x55) := by decide
theorem test_decode_push_match :
    decoded { st := .seek, wait := 0, win := 0xAA55AA } (.command 0x20000055) = some (.pushSeekMatch 0x55) := by decide
theorem test_decode_size_hi : headerRow 8 0x20000001 = some (.pushHdrSizeHi 0x01) := by decide
theorem test_decode_size_lo : headerRow 7 0x20000002 = some (.pushHdrSizeLo 0x02) := by decide
theorem test_decode_crc_lo : headerRow 6 0x20000087 = some (.pushHdrCrcLo 0x87) := by decide
theorem test_decode_crc_hi : headerRow 5 0x200000B7 = some (.pushHdrCrcHi 0xB7) := by decide
theorem test_decode_type_hi : headerRow 4 0x20000003 = some (.pushHdrTypeHi 0x03) := by decide
theorem test_decode_type_lo : headerRow 3 0x20000004 = some (.pushHdrTypeLo 0x04) := by decide
theorem test_decode_fmt_hi : headerRow 2 0x20000080 = some (.pushHdrFmtHi 0x80) := by decide
theorem test_decode_fmt_lo : headerRow 1 0x20000011 = some (.pushHdrFmtLo 0x11) := by decide
theorem test_decode_pay :
    decoded { st := .pay, wait := 2, win := 0 } (.command 0x20000012) = some (.pushPay 0x12) := by decide
theorem test_decode_push_undefined :
    rejected { st := .hdr, wait := 9, win := 0 } (.command 0x20000012) = some .pushUndefined ∧
    rejected { st := .pay, wait := 0, win := 0 } (.command 0x20000012) = some .pushUndefined := by decide
-- R35: the CSR map
theorem test_decode_reads :
    ([0, 1, 2, 3, 4, 5, 6, 7, 8, 9, 10, 11, 15] : List CsrAddr).map (fun a => decoded resetContext (.csrRead a))
      = [some .rdcsrMaxSize, some .rdcsrStatus, some .rdcsrSize, some .rdcsrCrcRx, some .rdcsrMsgType,
         some .rdcsrFormat, some .rdcsrWait, some .rdcsrCrcAcc, some .rdcsrSeekCnt, some .rdcsrWinLo,
         some .rdcsrWinHi, some (.rdcsrReserved 0xB), some (.rdcsrReserved 0xF)] := by decide
theorem test_decode_rdpb : decoded resetContext (.pbRead 0x0010) = some (.rdpb 0x0010) := by decide
theorem test_decode_events :
    ([0, 1, 2, 3] : List (BitVec 2)).map (fun k => decoded resetContext (.event k))
      = [some .evFrameReady, some .evSizeOutOfBounds, some .evChecksumMismatch, some .evDesyncNoise] := by decide
theorem test_decode_format : decoded resetContext (.formatWord 0x8011) = some (.format16 0x8011) := by decide
-- the named byte strings of spec/95_test_vectors.md
theorem test_decode_frame_E :
    frameRow [0xAA, 0x55, 0xAA, 0x55, 0x00, 0x00, 0xC0, 0x84, 0x00, 0x00, 0x00, 0x00]
      = some (.frameKeepalive 0 0x84C0 0 []) := by decide
theorem test_decode_frame_V1 :
    frameRow [0xAA, 0x55, 0xAA, 0x55, 0x00, 0x02, 0x87, 0xB7, 0x00, 0x01, 0x00, 0x00, 0x12, 0x34]
      = some (.framePositionReport 2 0xB787 0 [0x12, 0x34]) := by decide
theorem test_decode_frame_A :
    frameRow [0xAA, 0x55, 0xAA, 0x55, 0x00, 0x04, 0xAA, 0x41, 0x00, 0x02, 0x80, 0x00, 0xDE, 0xAD, 0xBE, 0xEF]
      = some (.frameAck 4 0x41AA 0x8000 [0xDE, 0xAD, 0xBE, 0xEF]) := by decide
theorem test_decode_frame_nack :
    frameRow [0xAA, 0x55, 0xAA, 0x55, 0x00, 0x01, 0xF3, 0x83, 0x00, 0x03, 0x00, 0x10, 0x55]
      = some (.frameNack 1 0x83F3 0x0010 [0x55]) := by decide
theorem test_decode_frame_F :
    frameRow [0xAA, 0x55, 0xAA, 0x55, 0x00, 0x05, 0x17, 0x95, 0x00, 0x04, 0x00, 0x00, 1, 2, 3, 4, 5]
      = some (.frameDeviceCmd 5 0x9517 0x0004 0 [1, 2, 3, 4, 5]) := by decide
theorem test_decode_frame_legacy :
    frameRow [0xAA, 0x55, 0xAA, 0x55, 0x00, 0x00, 0x34, 0x12, 0x01, 0x0B, 0x00, 0x00]
      = some (.frameLegacySetup 0 0x1234 0x010B 0 []) := by decide
-- V18
theorem test_decode_frame_hint1 :
    frameRow [0xAA, 0x55, 0xAA, 0x55, 0x00, 0x03, 0x81, 0xC5, 0x02, 0x01, 0xFF, 0xFF, 0, 0, 0]
      = some (.frameLifetimeHint1 3 0xC581 0xFFFF [0, 0, 0]) := by decide
theorem test_decode_frame_hint2 :
    frameRow [0xAA, 0x55, 0xAA, 0x55, 0x00, 0x00, 0x34, 0x12, 0x02, 0x02, 0x00, 0x01]
      = some (.frameLifetimeHint2 0 0x1234 0x0001 []) := by decide
theorem test_decode_frame_unlisted :
    frameRow [0xAA, 0x55, 0xAA, 0x55, 0x00, 0x01, 0x75, 0x04, 0x00, 0x40, 0x7F, 0xC8, 0x01]
      = some (.frameUnlisted 1 0x0475 0x0040 0x7FC8 [0x01]) := by decide
theorem test_decode_frame_rejects :
    rejected resetContext (.frame [0xAA, 0x54, 0xAA, 0x55, 0, 0, 0xC0, 0x84, 0, 0, 0, 0]) = some .noSentinel ∧
    rejected resetContext (.frame [0xAA, 0x55, 0xAA, 0x55, 0, 1, 0xC0, 0x84, 0, 0, 0, 0]) = some .frameLength ∧
    rejected resetContext (.frame [0xAA, 0x55, 0xAA, 0x55, 0, 0, 0xC0, 0x84, 0, 0, 0]) = some .frameTooShort := by decide
-- the fixed region as a number, its first byte in bits 7:0 (E above)
theorem test_table_word_frame : decodeTableWord 96 0x0000000084C0000055AA55AA = some (.frameKeepalive 0 0x84C0 0 []) := by
  decide
theorem test_table_word_too_wide : decodeTableWord 8 0x10 = none ∧ decodeTableWord 32 0x80000000 = none := by decide

/-! ## One step: the vectors of spec/95_test_vectors.md -/

-- V3
theorem test_crc_check_value : crc16 [0x31, 0x32, 0x33, 0x34, 0x35, 0x36, 0x37, 0x38, 0x39] = 0x29B1 := by decide +kernel
theorem test_crc_first_shift : crcShift 0xFFFF = 0xEFDF ∧ crcShift 0x0E1F = 0x1C3E := by decide
-- V5
theorem test_validate_size_first :
    validate 0x0010 0xAA55AA55 0x0011 0x1234 0x4321 = .sizeOutOfBounds ∧
    validate 0x0010 0xAA55AA55 0x0010 0x1234 0x1234 = .valid ∧
    validate 0x0000 0xAA55AA55 0x0000 0x84C1 0x84C0 = .checksumMismatch := by decide
-- V4
theorem test_format_fields :
    seen (exec (.format16 0x8011) base) (fun t => (t.out.evCrypto, t.out.evCompress, t.out.evAck)) = some (1, 1, true) ∧
    seen (exec (.format16 0x7FC8) base) (fun t => (t.out.evCrypto, t.out.evCompress, t.out.evAck)) = some (0, 0, false) := by
  decide
-- R150, V17: MAX_SIZE back to the ceiling, the payload cell kept
theorem test_reset :
    seen (exec .reset { inPayload 1 2 with maxSize := 0x0010, pbuf := [(0, 0x12)] })
      (fun t => (t.pbuf, t.maxSize, t.crcAcc, t.st)) = some ([(0, 0x12)], 16, 0xFFFF, .seek) := by decide
-- R151: EV_KIND keeps its value (V19, two cycles after V2's push 14)
theorem test_nop : seen (exec .nop { base with evValid := true, evKind := .checksumMismatch }) (fun t => t.csr 1)
    = some 0x0010 := by decide
-- V15
theorem test_wrcsr_clamp :
    ([0x0100, 0x8000, 0x0000, 0x0400, 0x0401] : List Half).map
      (fun v => seen (exec (.wrcsrMaxSize v) (sized 1024 256)) (fun t => t.maxSize))
      = [some 0x0100, some 0x0400, some 0, some 0x0400, some 0x0400] := by decide
theorem test_wrcsr_ignored : exec (.wrcsrIgnored 0x1 0xFFFF) (sized 1024 256) = .next (sized 1024 256) := by rfl
-- V16, both cases
theorem test_push_wrcsr_old_ceiling :
    seen (exec (.pushWrcsr 0 0x0040 0x00) { inHeader 1 0x0020 with cfg := base.cfg, maxSize := 0x0010 })
      (fun t => (t.st, t.evValid, t.evKind, t.maxSize)) = some (.seek, true, .sizeOutOfBounds, 0x0040) := by decide
theorem test_push_wrcsr_admitted :
    seen (exec (.pushWrcsr 0 0x0010 0x00) { inHeader 1 0x0020 with cfg := base.cfg, maxSize := 0x0040 })
      (fun t => (t.st, t.wait, t.evValid, t.maxSize)) = some (.pay, 0x0020, false, 0x0010) := by decide
-- V1 push 2; V11 (c)
theorem test_push_seek : seen (exec (.pushSeek 0x55) (inSeek 1 0x0000AA)) (fun t => (scan t, t.evValid))
    = some ((.seek, 0, 2, 0x00AA55), false) := by decide
theorem test_push_seek_noise :
    seen (exec (.pushSeek 0x0A) (inSeek 8 0x070809)) (fun t => (scan t, t.evValid, t.evKind))
      = some ((.seek, 0, 3, 0x08090A), true, .desyncNoise) := by decide
-- V10 (a) push 9: the match wins at the ceiling
theorem test_push_match_at_ceiling :
    seen (exec (.pushSeekMatch 0x55) (inSeek 8 0xAA55AA)) (fun t => (scan t, t.crcAcc, t.evValid))
      = some ((.hdr, 8, 0, 0), 0xFFFF, false) := by decide
-- V19, half-loaded read; V1 pushes 6 to 12
theorem test_size_hi : seen (exec (.pushHdrSizeHi 0x00) (inHeader 8 0x0134)) (fun t => (t.size, t.wait))
    = some (0x0034, 7) := by decide
theorem test_size_lo : seen (exec (.pushHdrSizeLo 0x02) (inHeader 7 0x0034)) (fun t => (t.size, t.wait, t.crcAcc))
    = some (0x0002, 6, 0xFFFF) := by decide
theorem test_crc_lo : seen (exec (.pushHdrCrcLo 0xF3) { inHeader 6 1 with crcRx := 0x84C0 }) (fun t => (t.crcRx, t.wait))
    = some (0x84F3, 5) := by decide
theorem test_crc_hi : seen (exec (.pushHdrCrcHi 0xB7) { inHeader 5 2 with crcRx := 0x0087 }) (fun t => (t.crcRx, t.crcAcc))
    = some (0xB787, 0xFFFF) := by decide
theorem test_type_hi : seen (exec (.pushHdrTypeHi 0x01) { inHeader 4 2 with msgType := 0x0003 }) (fun t => (t.msgType, t.wait))
    = some (0x0103, 3) := by decide
theorem test_type_lo : seen (exec (.pushHdrTypeLo 0x01) { inHeader 3 2 with crcAcc := 0xE1F0 }) (fun t => (t.msgType, t.crcAcc))
    = some (0x0001, 0x0D2E) := by decide
theorem test_fmt_hi : seen (exec (.pushHdrFmtHi 0x80) { inHeader 2 2 with format := 0x0011 }) (fun t => (t.format, t.wait))
    = some (0x8011, 1) := by decide
theorem test_fmt_lo_payload :
    seen (exec (.pushHdrFmtLo 0x00) { inHeader 1 2 with crcAcc := 0xFFAD }) (fun t => (t.st, t.wait, t.crcAcc, t.evValid))
      = some (.pay, 2, 0xB3F0, false) := by decide
-- V6 (a) push 12
theorem test_fmt_lo_empty :
    seen (exec (.pushHdrFmtLo 0x00) { inHeader 1 0 with crcRx := 0x84C0, crcAcc := 0xCC9C })
      (fun t => (scan t, t.evKind, t.events))
      = some ((.seek, 0, 0, 0), .frameReady, [.frameReady
          { header := 0xAA55AA55, size := 0, crc := 0x84C0, messageType := 0, format := 0, data := [] }]) := by decide
-- V1 push 14, V2 push 14
theorem test_push_pay_ready :
    seen (exec (.pushPay 0x34) { inPayload 1 2 with pbuf := [(0, 0x12)] }) (fun t => (t.pbuf, t.crcAcc, t.events))
      = some ([(0, 0x12), (1, 0x34)], 0xB787, [.frameReady
          { header := 0xAA55AA55, size := 2, crc := 0xB787, messageType := 0x0001, format := 0, data := [0x12, 0x34] }]) := by
  decide
theorem test_push_pay_mismatch :
    seen (exec (.pushPay 0x35) { inPayload 1 2 with pbuf := [(0, 0x12), (1, 0xFF)] })
      (fun t => (t.pbuf, t.crcAcc, t.csr 1, t.events))
      = some ([(0, 0x12), (1, 0x35)], 0xA7A6, 0x0014, [.frameRejected .checksumMismatch]) := by decide
-- V19
theorem test_rdcsr_status :
    seen (exec .rdcsrStatus { base with evValid := true, evKind := .desyncNoise }) (fun t => t.out.csrRdata) = some 0x001C ∧
    seen (exec .rdcsrStatus (inPayload 2 2)) (fun t => t.out.csrRdata) = some 0x0002 := by decide
theorem test_rdcsr_window :
    seen (exec .rdcsrWinLo (inSeek 3 0xAA55AA)) (fun t => t.out.csrRdata) = some 0x55AA ∧
    seen (exec .rdcsrWinHi (inSeek 3 0xAA55AA)) (fun t => t.out.csrRdata) = some 0x00AA ∧
    seen (exec .rdcsrSeekCnt (inSeek 3 0xAA55AA)) (fun t => t.out.csrRdata) = some 0x0003 := by decide
theorem test_rdcsr_registers :
    ([.rdcsrMaxSize, .rdcsrSize, .rdcsrCrcRx, .rdcsrMsgType, .rdcsrFormat, .rdcsrWait, .rdcsrCrcAcc, .rdcsr 0xC] : List Instr).map
      (fun i => seen (exec i { inPayload 1 2 with format := 0x8000 }) (fun t => t.out.csrRdata))
      = [some 16, some 2, some 0xB787, some 1, some 0x8000, some 1, some 0x55CB, some 0] := by decide
theorem test_rdpb :
    seen (exec (.rdpb 1) { inPayload 1 2 with pbuf := [(0, 0x12), (1, 0x34)] }) (fun t => t.out.pbRdata) = some 0x34 ∧
    seen (exec (.rdpb 0x10) (inPayload 1 2)) (fun t => t.out.pbRdata) = some 0 := by decide
-- R94, program 4, on the smallest legal instance
theorem test_frame_empty :
    seen (exec (.framePseudo 0 0 []) (sized 0 4)) (fun t => (scan t, t.evKind, t.crcRx, t.crcAcc))
      = some ((.seek, 0, 0, 0), .frameReady, 0x84C0, 0x84C0) := by decide +kernel
-- V7 (b): the oversized frame's payload byte is noise
theorem test_frame_oversized :
    seen (exec (.frameAck 1 0x731C 0 [0x7F]) { base with maxSize := 0 }) (fun t => (scan t, t.crcAcc, t.evKind, t.events.length))
      = some ((.seek, 0, 1, 0x00007F), 0xEAA0, .sizeOutOfBounds, 1) := by decide +kernel
theorem test_frame_forced :
    seen (exec (.frameForced 0 0 [] 0x84C1) base) (fun t => t.events) = some [.frameRejected .checksumMismatch] := by decide +kernel
-- V11 (b)
theorem test_feed_noise :
    seen (exec (.feed [1, 2, 3, 4, 5, 6, 7, 8]) (sized 0 4)) (fun t => (scan t, t.events))
      = some ((.seek, 0, 4, 0x060708), [.frameRejected .desyncNoise, .frameRejected .desyncNoise]) := by decide
theorem test_idle : seen (exec (.idle 3) { base with evValid := true }) (fun t => t.evValid) = some false := by decide
-- R175, R179
theorem test_event_desync :
    seen (exec .evDesyncNoise (inSeek 8 0x08090A)) (fun t => (scan t, t.evKind)) = some ((.seek, 0, 3, 0x08090A), .desyncNoise) := by
  decide
theorem test_event_size : seen (exec .evSizeOutOfBounds (inHeader 1 0x20)) (fun t => (scan t, t.evKind, t.size))
    = some ((.seek, 0, 0, 0), .sizeOutOfBounds, 0x20) := by decide
-- the whole cycle: program 3's cycle 16 with RDCSR MAX_SIZE in it
theorem test_step_reads_before_the_edge :
    seen (step { inHeader 1 2 with maxSize := 1, inputs := [{ pushRecord 0 with csrWe := true, csrWdata := 0x10, pbRaddr := 0x10 }] })
      (fun t => (t.out.csrRdata, t.out.pbRdata, t.maxSize, t.evKind, t.inputs)) = some (1, 0, 0x10, .sizeOutOfBounds, []) := by
  decide
-- the state the host places a word in: the next step runs it
theorem test_step_runs_the_fetched_word :
    seen (step ((sized 1024 256).withFetchWord 32 0x10010000)) (fun t => (t.maxSize, t.inputs)) = some (0x0100, []) := by decide
theorem test_stop_unselected : stopped (exec (.pushPay 0) base) = some (.inr .pushRowNotSelected) := by decide

/-! ## Witnesses: states and operands that meet the hypotheses of each statement -/

/-- An answer seen is a next state. -/
theorem ends {α : Type} {o : Result} {f : State → α} {v : α} (h : seen o f = some v) : ∃ t, o = .next t ∧ f t = v := by
  cases o with
  | next t => exact ⟨t, rfl, Option.some.inj h⟩
  | fault r => exact absurd h (by simp [seen])
  | refused r => exact absurd h (by simp [seen])

/-- A state whose coming cycle presents one byte. -/
def withByte (b : Byte) (s : State) : State := { s with inputs := [pushRecord b] }

/-- A state in the cycle after an event. -/
def afterEvent : State := { base with evValid := true, evKind := .frameReady }

theorem inv_base : Inv base := by constructor <;> decide
theorem inv_small : Inv (sized 16 8) := by constructor <;> decide
theorem inv_afterEvent : Inv afterEvent := by constructor <;> decide

theorem witness_DecodeEncodeAgree :
    ([(.pushHdrSizeLo 0xFF, ⟨.hdr, 7, 0⟩), (.pushPay 0, ⟨.pay, 1, 0⟩), (.pushSeekMatch 0x55, ⟨.seek, 0, 0xAA55AA⟩),
      (.rdcsr 0xF, resetContext), (.frame 1 0 0xFFFF 0 [0], resetContext)] : List (Instr × PushContext)).all
      (fun p => p.1.wellFormed && !p.1.isPseudo && p.1.selectedIn p.2) = true := by decide
theorem witness_DecoderKeepsEveryBitItsRowLooksAt_frame :
    (∀ w, Encoded.frame [0xAA, 0x55, 0xAA, 0x55, 0, 1, 0xF3, 0x83, 0, 3, 0, 0x10, 0x55] ≠ .command w) ∧
    decode resetContext (.frame [0xAA, 0x55, 0xAA, 0x55, 0, 1, 0xF3, 0x83, 0, 3, 0, 0x10, 0x55])
      = .ok (.frameNack 1 0x83F3 0x0010 [0x55]) := ⟨fun _ => nofun, by rfl⟩
-- R84, R85: all ones is RESET; the two enables alone and together; neither
theorem witness_DecoderKeepsEveryBitItsRowLooksAt_command :
    decode resetContext (.command 0x7FFFFFFF) = .ok .reset ∧
    decode resetContext (.command 0x2F1234AA) = .ok (.pushSeek 0xAA) ∧
    decode resetContext (.command 0x1F1234AA) = .ok (.wrcsrIgnored 0xF 0x1234) ∧
    decode resetContext (.command 0x3F1234AA) = .ok (.pushWrcsr 0xF 0x1234 0xAA) ∧
    decode resetContext (.command 0x0F1234AA) = .ok .nop := ⟨by rfl, by rfl, by rfl, by rfl, by rfl⟩
theorem witness_CommandDecodePriority :
    ({ idleRecord with rst := true, inValid := true, csrWe := true } : InputRecord).rst = true ∧
    (idleRecord.rst = false ∧ idleRecord.inValid = false ∧ idleRecord.csrWe = false) ∧
    (({ idleRecord with csrWe := true, csrAddr := 0xF } : InputRecord).csrWe = true) ∧
    (({ pushRecord 0xFF with csrWe := true } : InputRecord).csrWe = true) ∧
    ((pushRecord 0xFF).rst = false ∧ (pushRecord 0xFF).inValid = true ∧ (pushRecord 0xFF).csrWe = false) := by decide
theorem witness_EveryCommandWordDecodes : Inv base := inv_base
theorem witness_StepRunsDecodedInstruction :
    decode (withByte 0xAA base).context (.command (withByte 0xAA base).nextInput.command) = .ok (.pushSeek 0xAA) := by rfl
theorem witness_OutputsShowTheStateBeforeTheEdge : ∃ t, step base = .next t ∧ t.st = .seek := ends (by decide)
theorem witness_StepKeepsInvariants : Inv (withByte 0x55 base) ∧ ∃ t, step (withByte 0x55 base) = .next t ∧ t.seekCnt = 1 :=
  ⟨by constructor <;> decide, ends (by decide)⟩
theorem witness_NoInputStopsTheMachine : Inv (withByte 0x55 base) := by constructor <;> decide
theorem witness_PhaseTransitions_quiet :
    Inv base ∧ (∃ t, step base = .next t ∧ t.wait = 0) ∧ base.nextInput.rst = false ∧ base.nextInput.inValid = false :=
  ⟨inv_base, ends (by decide), rfl, rfl⟩
theorem witness_PhaseTransitions_seek :
    Inv (withByte 0x0A (inSeek 8 0x070809)) ∧ candidate 0x070809 0x0A ≠ 0xAA55AA55 ∧
    ∃ t, step (withByte 0x0A (inSeek 8 0x070809)) = .next t ∧ t.seekCnt = 3 :=
  ⟨by constructor <;> decide, by decide, ends (by decide)⟩
theorem witness_PhaseTransitions_match :
    Inv (withByte 0x55 (inSeek 8 0xAA55AA)) ∧ candidate 0xAA55AA 0x55 = 0xAA55AA55 ∧
    ∃ t, step (withByte 0x55 (inSeek 8 0xAA55AA)) = .next t ∧ t.wait = 8 :=
  ⟨by constructor <;> decide, by decide, ends (by decide)⟩
theorem witness_PhaseTransitions_header :
    (Inv (withByte 0x01 (inHeader 8 0)) ∧ ∃ t, step (withByte 0x01 (inHeader 8 0)) = .next t ∧ t.wait = 7) ∧
    (Inv (withByte 0x01 (inHeader 2 0)) ∧ ∃ t, step (withByte 0x01 (inHeader 2 0)) = .next t ∧ t.wait = 1) :=
  ⟨⟨by constructor <;> decide, ends (by decide)⟩, by constructor <;> decide, ends (by decide)⟩
theorem witness_PhaseTransitions_headerEnd :
    (Inv (withByte 0 (inHeader 1 17)) ∧ ∃ t, step (withByte 0 (inHeader 1 17)) = .next t ∧ t.evKind = .sizeOutOfBounds) ∧
    (Inv (withByte 0 (inHeader 1 0)) ∧ ∃ t, step (withByte 0 (inHeader 1 0)) = .next t ∧ t.evKind = .checksumMismatch) ∧
    (Inv (withByte 0 (inHeader 1 16)) ∧ ∃ t, step (withByte 0 (inHeader 1 16)) = .next t ∧ t.wait = 16) ∧
    (Inv (withByte 0 (inHeader 1 1)) ∧ ∃ t, step (withByte 0 (inHeader 1 1)) = .next t ∧ t.wait = 1) :=
  ⟨⟨by constructor <;> decide, ends (by decide)⟩, ⟨by constructor <;> decide, ends (by decide)⟩,
    ⟨by constructor <;> decide, ends (by decide)⟩, by constructor <;> decide, ends (by decide)⟩
theorem witness_PhaseTransitions_payload :
    (Inv (withByte 0x12 (inPayload 2 2)) ∧ ∃ t, step (withByte 0x12 (inPayload 2 2)) = .next t ∧ t.wait = 1) ∧
    (Inv (withByte 0x35 (inPayload 1 2)) ∧ ∃ t, step (withByte 0x35 (inPayload 1 2)) = .next t ∧ t.wait = 0) :=
  ⟨⟨by constructor <;> decide, ends (by decide)⟩, by constructor <;> decide, ends (by decide)⟩
theorem witness_EventsAreNeverConsecutive :
    Inv afterEvent ∧ afterEvent.evValid = true ∧ ∃ t, step afterEvent = .next t ∧ t.evValid = false :=
  ⟨inv_afterEvent, rfl, ends (by decide)⟩
theorem witness_OnlyPushRaises : ∃ t, step (withByte 0x0A (inSeek 8 0x070809)) = .next t ∧ t.evValid = true := ends (by decide)
theorem witness_EachEventIsReportedOnce :
    (∃ t, step base = .next t ∧ t.events.length = 0) ∧
    ∃ t, step (withByte 0x0A (inSeek 8 0x070809)) = .next t ∧ t.events.length = 1 := ⟨ends (by decide), ends (by decide)⟩
theorem witness_CycleTakesOneInputAndKeepsParameters :
    ∃ t, step (withByte 0x0A (inSeek 8 0x070809)) = .next t ∧ t.inputs = [] := ends (by decide)
theorem witness_PayloadBufferWrittenByPayloadBytesOnly :
    (∃ t, step (withByte 0x12 (inPayload 2 2)) = .next t ∧ t.pbuf = [(0, 0x12)]) ∧
    (∃ t, step (withByte 0x12 (inPayload 1 16)) = .next t ∧ t.pbuf = [(15, 0x12)]) ∧
    (∃ t, step (withByte 0x12 (inHeader 8 2)) = .next t ∧ t.pbuf = []) :=
  ⟨ends (by decide), ends (by decide), ends (by decide)⟩
theorem witness_MaxSizeWrittenByWrcsrAndResetOnly :
    (∃ t, step { sized 16 8 with maxSize := 3, inputs := [{ idleRecord with rst := true, csrWe := true }] } = .next t ∧ t.maxSize = 16) ∧
    (∃ t, step { sized 16 8 with inputs := [{ idleRecord with csrWe := true, csrWdata := 17 }] } = .next t ∧ t.maxSize = 16) ∧
    (∃ t, step { sized 16 8 with inputs := [{ idleRecord with csrWe := true, csrAddr := 1 }] } = .next t ∧ t.maxSize = 16) :=
  ⟨ends (by decide), ends (by decide), ends (by decide)⟩
theorem witness_WrcsrClampsOrIsIgnored : (0x1 : CsrAddr) ≠ 0 ∧ (0xF : CsrAddr) ≠ 0 := by decide
theorem witness_PushWithWrcsrReadsTheOldCeiling : Inv (inHeader 1 17) := by constructor <;> decide
theorem witness_SeekingByteWithoutMatch :
    ((inSeek 8 0x070809).st = .seek ∧ candidate (inSeek 8 0x070809).win 0x0A ≠ 0xAA55AA55 ∧ 8 + 1 > (inSeek 8 0).cfg.scanCeiling.toNat) ∧
    ((inSeek 7 0x070809).st = .seek ∧ candidate (inSeek 7 0x070809).win 0x0A ≠ 0xAA55AA55 ∧ ¬ 7 + 1 > (inSeek 7 0).cfg.scanCeiling.toNat) := by
  decide
theorem witness_SeekingByteWithMatch : (inSeek 3 0xAA55AA).st = .seek ∧ (inSeek 3 0xAA55AA).win = 0xAA55AA := by decide
theorem witness_HeaderSizeAndCrcBytes : ∀ w : Half, (inHeader w 0).st = .hdr ∧ (inHeader w 0).wait = w := fun _ => ⟨rfl, rfl⟩
theorem witness_HeaderTypeAndFormatHighBytes : ∀ w : Half, (inHeader w 2).st = .hdr ∧ (inHeader w 2).wait = w := fun _ => ⟨rfl, rfl⟩
theorem witness_HeaderLastByte :
    (inHeader 1 17).size.toNat > (inHeader 1 17).maxSize.toNat ∧
    crc16Update { inHeader 1 0 with crcRx := 0x84C0, crcAcc := 0xCC9C }.crcAcc 0 = 0x84C0 ∧
    crc16Update { inHeader 1 0 with crcRx := 0x84C1, crcAcc := 0xCC9C }.crcAcc 0 ≠ 0x84C1 ∧
    0 < (inHeader 1 16).size.toNat ∧ (inHeader 1 16).size.toNat ≤ (inHeader 1 16).maxSize.toNat := by decide
theorem witness_PayloadByteBeforeTheLast :
    (inPayload 2 16).st = .pay ∧ 2 ≤ (inPayload 2 16).wait.toNat ∧ (inPayload 2 16).wait.toNat ≤ (inPayload 2 16).size.toNat ∧
    (inPayload 2 16).size.toNat ≤ (inPayload 2 16).cfg.maxSizeCeiling.toNat := by decide
theorem witness_LastPayloadByte :
    (inPayload 1 2).st = .pay ∧ (inPayload 1 2).wait = 1 ∧ 1 ≤ (inPayload 1 2).size.toNat ∧
    (inPayload 1 2).size.toNat ≤ (inPayload 1 2).cfg.maxSizeCeiling.toNat ∧
    crc16Update (inPayload 1 2).crcAcc 0x34 = (inPayload 1 2).crcRx ∧
    crc16Update (inPayload 1 2).crcAcc 0x35 ≠ (inPayload 1 2).crcRx := by decide
theorem witness_UnselectedPushRowsAreRefused :
    ¬ ((inHeader 9 0).st = .seek) ∧ ¬ ((inHeader 9 0).wait = 8) ∧ ¬ ((inSeek 3 0xAA55AA).st = .hdr) ∧
    ¬ (1 ≤ (inPayload 0 2).wait.toNat) ∧ ¬ ((inPayload 3 2).wait.toNat ≤ (inPayload 3 2).size.toNat) ∧
    ¬ (candidate (inSeek 3 0xAA55AA).win 0x55 ≠ sentinel) ∧ ¬ (candidate (inSeek 3 0xAA55AA).win 0x54 = sentinel) := by decide
theorem witness_PushOutsideReachableStatesStops :
    stopped (exec (.feed [0]) (inHeader 0 0)) = some (.inr .pushUndefined) ∧
    stopped (exec (.feed [0]) (inHeader 9 0)) = some (.inr .pushUndefined) ∧
    stopped (exec (.feed [0]) (inPayload 0 2)) = some (.inr .pushUndefined) ∧
    stopped (exec (.feed [0]) (inPayload 3 2)) = some (.inr .pushUndefined) ∧
    stopped (exec (.pushPay 0) (inPayload 1 17)) = some (.inl (.pbufWriteOutOfRange 16)) := by decide
theorem witness_PayloadIgnoresTheCeiling : ∃ t, exec (.pushPay 0x12) (inPayload 2 2) = .next t ∧ t.wait = 1 := ends (by decide)
theorem witness_CsrReadsShowTheMap : 0xB ≤ (0xB : CsrAddr).toNat ∧ 0xB ≤ (0xF : CsrAddr).toNat := by decide
theorem witness_PayloadReadShowsTheCell :
    (sized 16 8).cfg.maxSizeCeiling.toNat ≤ (16 : Half).toNat ∧
    ((15 : Half).toNat < (sized 16 8).cfg.maxSizeCeiling.toNat ∧ Memory.lookup [(15, 0x12)] (15 : Half).toNat = some 0x12) ∧
    Memory.lookup (sized 16 8).pbuf (15 : Half).toNat = none := by decide
theorem witness_OneByteErrorChangesTheChecksum : (0x34 : Byte) ≠ 0x35 := by decide
theorem witness_HardwareAgreesWithValidate :
    ([0, 1, 2, 3] : List Half).all (fun m => decide ((State.FreshSeek { sized 16 8 with maxSize := m }) ∧
      (sized 16 8).cfg.Legal ∧ m.toNat ≤ (sized 16 8).cfg.maxSizeCeiling.toNat ∧ ([1, 2] : List Byte).length = (2 : Half).toNat)) = true := by
  decide
theorem witness_FrameWithinBoundsGivesItsEvent :
    frameFields (.frameUnlisted 2 0 0x40 0 [1, 2]) = some (2, 0, 0x40, 0, [1, 2]) ∧
    (Instr.frameUnlisted 2 0 0x40 0 [1, 2]).wellFormed = true ∧ (sized 16 8).FreshSeek ∧ (sized 16 8).cfg.Legal ∧
    (2 : Half).toNat ≤ (sized 16 8).maxSize.toNat ∧ (sized 16 8).maxSize.toNat ≤ (sized 16 8).cfg.maxSizeCeiling.toNat := by
  decide
theorem witness_OversizedFrameIsRejected :
    frameFields (.frameAck 17 0 0 [1]) = some (17, 0, 2, 0, [1]) ∧ (sized 16 8).FreshSeek ∧ (sized 16 8).cfg.Legal ∧
    (sized 16 8).maxSize.toNat < (17 : Half).toNat := by decide
theorem witness_EncodedFrameRoundTrip :
    (sized 2 4).cfg.Legal ∧ ([0x12, 0x34] : List Byte).length ≤ (sized 2 4).cfg.maxSizeCeiling.toNat := by decide
theorem witness_ForcedChecksumFrame :
    (sized 2 4).FreshSeek ∧ (sized 2 4).cfg.Legal ∧ ([0x12, 0x34] : List Byte).length ≤ (sized 2 4).maxSize.toNat ∧
    (sized 2 4).maxSize.toNat ≤ (sized 2 4).cfg.maxSizeCeiling.toNat ∧
    crc16 (coveredBytes 1 0 [0x12, 0x34]) = 0xB787 := by decide +kernel
theorem witness_DamagedFrameGivesChecksumMismatch :
    (sized 2 4).FreshSeek ∧ (sized 2 4).cfg.Legal ∧ ([0x12, 0x34] : List Byte).length ≤ (sized 2 4).maxSize.toNat ∧
    (sized 2 4).maxSize.toNat ≤ (sized 2 4).cfg.maxSizeCeiling.toNat ∧ (0x34 : Byte) ≠ 0x35 ∧
    coveredBytes 1 0 [0x12, 0x34] = [0, 1, 0, 0, 0x12] ++ 0x34 :: [] ∧
    coveredBytes 1 0 [0x12, 0x35] = [0, 1, 0, 0, 0x12] ++ 0x35 :: [] := by decide
theorem witness_FeedCompletes : Inv (inPayload 1 16) := by constructor <;> decide
theorem witness_FeedOfConcatenation : ∃ t, exec (.feed [1, 2]) base = .next t ∧ t.seekCnt = 2 := ends (by decide)
theorem witness_CyclesRunAsFeed :
    Inv { base with inputs := [pushRecord 0xAA, idleRecord, pushRecord 0x55] ++ [pushRecord 1] } ∧
    [pushRecord 0xAA, idleRecord, pushRecord 0x55].all plainCycle = true := ⟨by constructor <;> decide, by decide⟩
theorem witness_QuietNoiseFillsTheWindow :
    (sized 16 8).FreshSeek ∧ (sized 16 8).cfg.Legal ∧ hasSentinel [1, 2, 3, 4, 5, 0xAA, 0x55, 0xAA] = false ∧
    ([1, 2, 3, 4, 5, 0xAA, 0x55, 0xAA] : List Byte).length ≤ (sized 16 8).cfg.scanCeiling.toNat := by decide
theorem witness_DesyncNoiseRecurs :
    (sized 0 4).FreshSeek ∧ (sized 0 4).cfg.Legal ∧ hasSentinel [1, 2, 3, 4, 5, 6, 7, 8] = false := by decide
theorem witness_RecoveryFromNoise :
    (sized 16 8).FreshSeek ∧ (sized 16 8).cfg.Legal ∧ ([0x12, 0x34] : List Byte).length ≤ (sized 16 8).maxSize.toNat ∧
    (sized 16 8).maxSize.toNat ≤ (sized 16 8).cfg.maxSizeCeiling.toNat ∧
    hasSentinel ([1, 2, 3, 4, 5] ++ [0xAA, 0x55, 0xAA]) = false ∧
    ([1, 2, 3, 4, 5] : List Byte).length + 3 ≤ (sized 16 8).cfg.scanCeiling.toNat := by decide
theorem witness_PayloadCellLifetime :
    Inv (sized 16 8) ∧ (sized 16 8).FreshSeek ∧
    ([0xAA, 0x55, 0xAA, 0x55, 0, 1, 0, 0, 0, 0, 0, 0] : List Byte).length ≤ 12 + 0 ∧
    ∃ t, exec (.feed [0xAA, 0x55, 0xAA, 0x55, 0, 1, 0, 0, 0, 0, 0, 0]) (sized 16 8) = .next t ∧ t.st = .pay :=
  ⟨inv_small, by decide, by decide, ends (by decide +kernel)⟩
theorem witness_HeaderFieldLifetime :
    Inv (sized 16 8) ∧ (sized 16 8).FreshSeek ∧
    (∃ t, exec (.feed [0xAA, 0x55, 0xAA, 0x55]) (sized 16 8) = .next t ∧ t.wait = 8) ∧
    (∃ t, exec (.feed [0xAA, 0x55, 0xAA, 0x55, 1, 2]) (sized 16 8) = .next t ∧ t.size = 0x0102) ∧
    (∃ t, exec (.feed [0xAA, 0x55, 0xAA, 0x55, 1, 2, 3, 4]) (sized 16 8) = .next t ∧ t.crcRx = 0x0403) ∧
    (∃ t, exec (.feed [0xAA, 0x55, 0xAA, 0x55, 1, 2, 3, 4, 5, 6]) (sized 16 8) = .next t ∧ t.msgType = 0x0506) :=
  ⟨inv_small, by decide, ends (by decide +kernel), ends (by decide +kernel), ends (by decide +kernel),
    ends (by decide +kernel)⟩
theorem witness_MinimumPushesBetweenEvents :
    Inv afterEvent ∧ afterEvent.evValid = true ∧
    ([1, 2, 3, 4, 5, 6, 7, 8] : List Byte).length < min (afterEvent.cfg.scanCeiling.toNat - 2) 9 ∧
    ∃ t, exec (.feed [1, 2, 3, 4, 5, 6, 7, 8]) afterEvent = .next t ∧ t.seekCnt = 8 :=
  ⟨inv_afterEvent, rfl, by decide, ends (by decide +kernel)⟩

end Sys2Proof.Tests
end

/-! # One clock cycle, its frame, the invariants of R40, and chunk-boundary independence (spec/00_scope.md R10 to R14)

A step is the two reads of the cycle and then one operation of the command word on `State.latched`, the state whose
input record has been taken and whose output ports are settled. `cycleCase_of_step` says once what that operation can
be; the claims about every step are read off it. -/

namespace Sys2Proof.Machine

/-! ## What surrounds the registers: pending inputs, outputs and the strobe -/

/-- The state with other pending inputs, other last outputs and another EV_VALID: what R138 leaves open. -/
def State.withEnv (i : List InputRecord) (o : Output) (v : Bool) (s : State) : State :=
  { s with inputs := i, out := o, evValid := v }

/-- The state on which the operation of a cycle acts: the input record taken, the outputs of R12 on their ports. -/
def State.latched (s : State) : State :=
  s.withEnv s.inputs.tail (s.outputs s.nextInput.csrAddr s.nextInput.pbRaddr) s.evValid

@[simp] theorem latched_cfg (s : State) : s.latched.cfg = s.cfg := rfl
@[simp] theorem latched_inputs (s : State) : s.latched.inputs = s.inputs.tail := rfl
@[simp] theorem latched_events (s : State) : s.latched.events = s.events := rfl
@[simp] theorem latched_out (s : State) :
    s.latched.out = s.outputs s.nextInput.csrAddr s.nextInput.pbRaddr := rfl

@[simp] theorem latched_context (s : State) : s.latched.context = s.context := rfl

/-- Taking an event does not read what surrounds the registers, and sets the strobe itself (R170). -/
theorem takeEvent_withEnv (k : EventKind) (i : List InputRecord) (o : Output) (v : Bool) (s : State) :
    (s.withEnv i o v).takeEvent k = (s.takeEvent k).withEnv i o true := by
  cases k <;> rfl

theorem pushSeekByte_withEnv (b : Byte) (i : List InputRecord) (o : Output) (v : Bool) (s : State) :
    (s.withEnv i o v).pushSeekByte b = (s.pushSeekByte b).withEnv i o (s.pushSeekByte b).evValid := by
  unfold State.pushSeekByte
  show (if s.cfg.scanCeiling.toNat < s.seekCnt.toNat + 1 then _ else _) = _
  split <;> rfl

theorem endHeader_withEnv (i : List InputRecord) (o : Output) (v : Bool) (s : State) :
    (s.withEnv i o v).endHeader = s.endHeader.withEnv i o s.endHeader.evValid := by
  unfold State.endHeader State.complete
  show (if s.maxSize < s.size then _ else if s.size = 0 then _ else _) = _
  split
  · rw [takeEvent_withEnv, takeEvent_evValid]
  · split
    · rw [takeEvent_withEnv, takeEvent_evValid]; rfl
    · rfl

theorem endPayload_withEnv (i : List InputRecord) (o : Output) (v : Bool) (s : State) :
    (s.withEnv i o v).endPayload = s.endPayload.withEnv i o s.endPayload.evValid := by
  unfold State.endPayload State.complete
  show (if s.wait = 1 then _ else _) = _
  split
  · rw [takeEvent_withEnv, takeEvent_evValid]; rfl
  · rfl

/-- A pushed byte does the same whatever surrounds the registers, and sets the strobe itself (R138). -/
theorem push_withEnv {b : Byte} {s t : State} (h : s.push b = .next t) (i : List InputRecord) (o : Output) (v : Bool) :
    (s.withEnv i o v).push b = .next (t.withEnv i o t.evValid) := by
  rcases push_cases h with ⟨hst, hc, rfl⟩ | ⟨hst, hc, rfl⟩ | ⟨hst, hw, rfl⟩ | ⟨hst, hw, rfl⟩ | ⟨hst, hw, rfl⟩ |
    ⟨hst, hw, rfl⟩ | ⟨hst, hw, rfl⟩ | ⟨hst, hw, rfl⟩ | ⟨hst, hw, rfl⟩ | ⟨hst, hw, rfl⟩ | ⟨hst, ho, hx, rfl⟩
  · exact push_seek_match (s := s.withEnv i o v) hst hc
  · rw [push_seek (s := s.withEnv i o v) hst hc, pushSeekByte_withEnv]
  · exact push_hdr8 (s := s.withEnv i o v) hst hw
  · exact push_hdr7 (s := s.withEnv i o v) hst hw
  · exact push_hdr6 (s := s.withEnv i o v) hst hw
  · exact push_hdr5 (s := s.withEnv i o v) hst hw
  · exact push_hdr4 (s := s.withEnv i o v) hst hw
  · exact push_hdr3 (s := s.withEnv i o v) hst hw
  · exact push_hdr2 (s := s.withEnv i o v) hst hw
  · rw [push_hdr1 (s := s.withEnv i o v) hst hw]
    exact congrArg _ (endHeader_withEnv i o v (State.cover b { s with format := setLo s.format b }))
  · rw [push_pay (s := s.withEnv i o v) hst ho hx]
    exact congrArg _ (endPayload_withEnv i o v ((s.pbWrite s.payloadIndex b).cover b))

/-! ## The step -/

/-- A step is the decoded operation on the latched state (R10, R85). -/
theorem step_of_decode {s : State} {i : Instr} (h : decode s.context (.command s.nextInput.command) = .ok i) :
    step s = exec i s.latched := by
  unfold step State.fetch
  rw [h]
  show cycle i s.nextInput s.beginCycle = _
  rw [cycle_eq]
  exact congrArg (exec i) (beginCycle_reads s s.nextInput.csrAddr s.nextInput.pbRaddr)

/-- Where a byte can be pushed, the sub-decode selects a row for it (R86). -/
theorem decodePush_of_push {b : Byte} {s t : State} (h : s.push b = .next t) :
    ∃ i, decodePush s.context b = .ok i := by
  unfold State.push at h
  cases hst : s.st with
  | seek => exact ⟨decodePushSeek s.win b, by simp [decodePush, State.context, hst]⟩
  | hdr =>
    simp only [hst, State.pushHeader] at h
    split at h
    case h_9 => cases h
    all_goals
      rename_i hw
      simp [decodePush, State.context, hst, decodePushHdr, hw]
  | pay =>
    simp only [hst] at h
    split at h
    case isFalse => cases h
    case isTrue ho =>
      have hw : s.wait ≠ 0 := by rintro hw; simp [State.payloadOpen, hw] at ho
      exact ⟨.pushPay b, by simp only [decodePush, State.context, hst, decodePushPay, if_neg hw]⟩

/-- A byte alone in its cycle is pushed (R85, R86). -/
theorem step_eq_next_iff_push {s t : State} (hr : s.nextInput.rst = false) (hv : s.nextInput.inValid = true)
    (hc : s.nextInput.csrWe = false) : step s = .next t ↔ s.latched.push s.nextInput.inData = .next t := by
  have hd : decode s.context (.command s.nextInput.command) = decodePush s.context s.nextInput.inData := by
    rw [decode_record]; simp [hr, hv, hc]
  cases hi : decodePush s.context s.nextInput.inData with
  | ok i => rw [step_of_decode (hd.trans hi)]; exact exec_decodePush (s := s.latched) hi
  | error e =>
    have hs : step s = .refused .pushUndefined := by unfold step State.fetch; rw [hd, hi]
    have hp : ¬ s.latched.push s.nextInput.inData = .next t := fun h => by
      obtain ⟨i, h⟩ := decodePush_of_push h
      rw [latched_context, hi] at h; cases h
    simp [hs, hp]

/-- A quiet cycle only ends the strobe (R151). -/
theorem step_of_quiet {s : State} (hr : s.nextInput.rst = false) (hv : s.nextInput.inValid = false)
    (hc : s.nextInput.csrWe = false) : step s = .next s.latched.quiet :=
  step_of_decode (i := .nop) (by rw [decode_record]; simp [hr, hv, hc])

theorem exec_decodeWrcsr (a : CsrAddr) (v : Half) (s : State) : exec (decodeWrcsr a v) s = .next (s.wrcsr a v) := by
  unfold decodeWrcsr
  split
  · subst a; rfl
  · rfl

/-- What a step that answers a next state has done, by the fields of its command word in R85's priority. -/
inductive CycleCase (s : State) : State → Prop where
  | reset (hr : s.nextInput.rst = true) : CycleCase s s.latched.resetRegisters
  | quiet (hr : s.nextInput.rst = false) (hv : s.nextInput.inValid = false) (hc : s.nextInput.csrWe = false) :
      CycleCase s s.latched.quiet
  | write (hr : s.nextInput.rst = false) (hv : s.nextInput.inValid = false) (hc : s.nextInput.csrWe = true) :
      CycleCase s (s.latched.wrcsr s.nextInput.csrAddr s.nextInput.csrWdata)
  | push {t : State} (hr : s.nextInput.rst = false) (hv : s.nextInput.inValid = true) (hc : s.nextInput.csrWe = false)
      (hp : s.latched.push s.nextInput.inData = .next t) : CycleCase s t
  | pushWrite {u : State} (hr : s.nextInput.rst = false) (hv : s.nextInput.inValid = true)
      (hc : s.nextInput.csrWe = true) (hp : s.latched.push s.nextInput.inData = .next u) :
      CycleCase s (u.writeCsr s.nextInput.csrAddr s.nextInput.csrWdata)

/-- Everything a step can do (R85). -/
theorem cycleCase_of_step {s t : State} (h : step s = .next t) : CycleCase s t := by
  have hd := decode_record s.context s.nextInput
  cases hr : s.nextInput.rst with
  | true =>
    rw [step_of_decode (i := .reset) (by rw [hd]; simp [hr])] at h
    cases h; exact .reset hr
  | false =>
    cases hv : s.nextInput.inValid <;> cases hc : s.nextInput.csrWe
    case false.false => rw [step_of_quiet hr hv hc] at h; cases h; exact .quiet hr hv hc
    case false.true =>
      rw [step_of_decode (i := decodeWrcsr s.nextInput.csrAddr s.nextInput.csrWdata) (by rw [hd]; simp [hr, hv, hc]),
        exec_decodeWrcsr] at h
      cases h; exact .write hr hv hc
    case true.false => exact .push hr hv hc ((step_eq_next_iff_push hr hv hc).1 h)
    case true.true =>
      rw [step_of_decode (i := .pushWrcsr s.nextInput.csrAddr s.nextInput.csrWdata s.nextInput.inData)
        (by rw [hd]; simp [hr, hv, hc])] at h
      obtain ⟨u, hp, hu⟩ := andThen_next.1 h
      cases hu; exact .pushWrite hr hv hc hp

/-- What no step changes, the outputs it leaves and the event it reports (R11, R12, R43, R171). -/
theorem step_frame {s t : State} (h : step s = .next t) :
    t.cfg = s.cfg ∧ t.inputs = s.inputs.tail ∧ t.out = s.outputs s.nextInput.csrAddr s.nextInput.pbRaddr ∧
    ((t.evValid = false ∧ t.events = s.events) ∨
      (t.evValid = true ∧ t.events = s.events ++ [t.eventValue t.evKind])) := by
  cases cycleCase_of_step h with
  | reset => simp
  | quiet => simp
  | write => simp [State.wrcsr]
  | push _ _ _ hp =>
    obtain ⟨hcfg, hin, hout, -, hev, -⟩ := push_frame hp
    exact ⟨hcfg, hin, hout, hev⟩
  | pushWrite _ _ _ hp =>
    obtain ⟨hcfg, hin, hout, -, hev, -⟩ := push_frame hp
    simpa [hcfg, hin, hout] using hev

/-! ## The format fields as numbers (R76, R101) -/

theorem decodeFormat_cryptoType_toNat (f : Half) : (decodeFormat f).cryptoType.toNat = f.toNat % 8 := by
  simp [decodeFormat]

theorem decodeFormat_compressType_toNat (f : Half) : (decodeFormat f).compressType.toNat = f.toNat / 16 % 4 := by
  simp [decodeFormat, Nat.shiftRight_eq_div_pow]

theorem decodeFormat_ackRequired_iff (f : Half) : (decodeFormat f).ackRequired = true ↔ 32768 ≤ f.toNat := by
  have := f.isLt
  simp only [decodeFormat, BitVec.getLsbD, Nat.testBit_eq_decide_div_mod_eq, decide_eq_true_eq]
  omega

/-! ## The invariants (R40) -/

theorem latched_inv {s : State} (hi : Inv s) : Inv s.latched :=
  ⟨hi.cfg_legal, hi.seek_parked, hi.hdr_open, hi.pay_open, hi.max_size_clamped, hi.pbuf_sorted, hi.pbuf_within,
    hi.event_cycle⟩

theorem quiet_inv {s : State} (hi : Inv s) : Inv s.quiet :=
  ⟨hi.cfg_legal, hi.seek_parked, hi.hdr_open, hi.pay_open, hi.max_size_clamped, hi.pbuf_sorted, hi.pbuf_within,
    by simp⟩

/-- A CSR write clamps MAX_SIZE and touches nothing else the invariants speak of (R153). -/
theorem writeCsr_inv {s : State} (hi : Inv s) (a : CsrAddr) (v : Half) : Inv (s.writeCsr a v) := by
  unfold State.writeCsr
  split
  · have hclamp : (clampSize s.cfg.maxSizeCeiling v).toNat ≤ s.cfg.maxSizeCeiling.toNat := by
      rw [clamp_toNat]; exact Nat.min_le_right _ _
    exact ⟨hi.cfg_legal, hi.seek_parked, hi.hdr_open, hi.pay_open, hclamp, hi.pbuf_sorted, hi.pbuf_within,
      hi.event_cycle⟩
  · exact hi

/-- A RESET establishes all but what it keeps: the parameters and the buffer (R41, R150). -/
theorem resetRegisters_inv {s : State} (hl : s.cfg.Legal) (hs : Memory.wf s.pbuf = true)
    (hw : Memory.within s.pbuf s.cfg.maxSizeCeiling.toNat = true) : Inv s.resetRegisters :=
  ⟨hl, by simp [windowFill], by simp, by simp, by simp, hs, hw, by simp⟩

theorem step_inv {s t : State} (hi : Inv s) (h : step s = .next t) : Inv t := by
  have hl := latched_inv hi
  cases cycleCase_of_step h with
  | reset => exact resetRegisters_inv hl.cfg_legal hl.pbuf_sorted hl.pbuf_within
  | quiet => exact quiet_inv hl
  | write => exact quiet_inv (writeCsr_inv hl _ _)
  | push _ _ _ hp => exact push_inv hl hp
  | pushWrite _ _ _ hp => exact writeCsr_inv (push_inv hl hp) _ _

/-- The range of R6 is the range of the free value. -/
theorem chosen_legal : Config.chosen.Legal := by
  simp only [Config.Legal, Config.chosen, BitVec.toNat_ofNat]
  omega

/-! ## Runs of cycles -/

theorem run_of_step {M : Host.Core} {s t : M.State} (h : M.step s = .next t) (k : Nat) :
    M.run (k + 1) s = M.run k t := by
  simp only [Host.Core.run, h]

theorem bytesOf_cons_quiet {r : InputRecord} (h : r.inValid = false) (rs : List InputRecord) :
    bytesOf (r :: rs) = bytesOf rs := by
  simp [bytesOf, h]

theorem bytesOf_cons_byte {r : InputRecord} (h : r.inValid = true) (rs : List InputRecord) :
    bytesOf (r :: rs) = r.inData :: bytesOf rs := by
  simp [bytesOf, h]

/-- A plain cycle without a byte changes only what surrounds the registers (R138, R151). -/
theorem step_withEnv_quiet {r : InputRecord} (hr : plainCycle r = true) (hv : r.inValid = false) (s : State)
    (rs : List InputRecord) (o : Output) (v : Bool) :
    ∃ o', step (s.withEnv (r :: rs) o v) = .next (s.withEnv rs o' false) := by
  obtain ⟨hrst, hwe⟩ : r.rst = false ∧ r.csrWe = false := by simpa [plainCycle] using hr
  exact ⟨_, step_of_quiet (s := s.withEnv (r :: rs) o v) hrst hv hwe⟩

/-- A plain cycle with a byte is the PUSH of that byte, but for what surrounds the registers (R93, R138). -/
theorem step_withEnv_byte {r : InputRecord} (hr : plainCycle r = true) (hv : r.inValid = true) {s u : State}
    (hp : s.push r.inData = .next u) (rs : List InputRecord) (o : Output) (v : Bool) :
    ∃ o', step (s.withEnv (r :: rs) o v) = .next (u.withEnv rs o' u.evValid) := by
  obtain ⟨hrst, hwe⟩ : r.rst = false ∧ r.csrWe = false := by simpa [plainCycle] using hr
  exact ⟨_, (step_eq_next_iff_push (s := s.withEnv (r :: rs) o v) hrst hv hwe).2 (push_withEnv hp rs _ v)⟩

/-- A run over plain cycles, begun with any outputs and any strobe, simulates the FEED of its bytes (R93, R138). The
FEED starts from the bare registers `s`, so that a quiet cycle, which the FEED does not make, changes only what
surrounds them. -/
theorem run_simulates_feed (rest rs : List InputRecord) (hrs : ∀ r ∈ rs, plainCycle r = true) (s : State)
    (hi : Inv s) (o : Output) (v : Bool) :
    ∃ (t : State) (o' : Output) (v' : Bool), feedBytes (bytesOf rs) s = .next t ∧
      Host.Core.run Sys2Proof.core rs.length (s.withEnv (rs ++ rest) o v) = .next (t.withEnv rest o' v') := by
  induction rs generalizing s o v with
  | nil => exact ⟨s, o, v, rfl, rfl⟩
  | cons r rs ih =>
    obtain ⟨hr, hrs⟩ := List.forall_mem_cons.1 hrs
    cases hv : r.inValid with
    | false =>
      obtain ⟨o₁, hstep⟩ := step_withEnv_quiet hr hv s (rs ++ rest) o v
      obtain ⟨t, o', v', hfeed, hrun⟩ := ih hrs s hi o₁ false
      exact ⟨t, o', v', by rw [bytesOf_cons_quiet hv, hfeed],
        (run_of_step (M := Sys2Proof.core) hstep rs.length).trans hrun⟩
    | true =>
      obtain ⟨u, hp⟩ := push_total (b := r.inData) hi
      obtain ⟨o₁, hstep⟩ := step_withEnv_byte hr hv hp (rs ++ rest) o v
      obtain ⟨t, o', v', hfeed, hrun⟩ := ih hrs u (push_inv hi hp) o₁ u.evValid
      exact ⟨t, o', v', by rw [bytesOf_cons_byte hv, feed_next hp, hfeed],
        (run_of_step (M := Sys2Proof.core) hstep rs.length).trans hrun⟩

/-! ## The statements -/

/-- Settles O8: each case of the cycle keeps the invariants. -/
theorem stepKeepsInvariants : Obligations.StepKeepsInvariants :=
  fun _ _ hi h => step_inv hi h

/-- Settles O47, by the simulation of FEED by the run, taken at the state's own inputs, outputs and strobe. -/
theorem cyclesRunAsFeed : Obligations.CyclesRunAsFeed := by
  intro rs rest s hi hrs hin
  have hs : s.withEnv (rs ++ rest) s.out s.evValid = s := by rw [← hin]; rfl
  have hsim := run_simulates_feed rest rs hrs s hi s.out s.evValid
  rw [hs] at hsim
  exact hsim

/-- Settles O7: the outputs of the latched state are those of the state before the edge, and no operation of a
cycle writes an output port. -/
theorem outputsShowTheStateBeforeTheEdge : Obligations.OutputsShowTheStateBeforeTheEdge := by
  intro s t h
  obtain ⟨-, -, hout, -⟩ := step_frame h
  rw [hout]
  exact ⟨rfl, rfl, rfl, rfl, rfl, rfl, rfl, decodeFormat_cryptoType_toNat s.format,
    decodeFormat_compressType_toNat s.format, decodeFormat_ackRequired_iff s.format, rfl, rfl⟩

/-- Settles O14: only a pushed byte reports, and a CSR write beside it changes nothing the event's value reads. -/
theorem eachEventIsReportedOnce : Obligations.EachEventIsReportedOnce := by
  intro s t h
  obtain ⟨-, -, -, hev⟩ := step_frame h
  exact hev

/-- Settles O15, from the frame of the step. -/
theorem cycleTakesOneInputAndKeepsParameters : Obligations.CycleTakesOneInputAndKeepsParameters := by
  intro s t h
  obtain ⟨hcfg, hin, -, -⟩ := step_frame h
  exact ⟨hcfg, hin⟩

/-- Settles O6: the state the statement writes out is the latched one. -/
theorem stepRunsDecodedInstruction : Obligations.StepRunsDecodedInstruction :=
  fun _ _ h => step_of_decode h

/-- Settles O9: the reset state is a RESET of a state with an empty buffer and legal parameters. -/
theorem resetMeetsInvariants : Obligations.ResetMeetsInvariants :=
  resetRegisters_inv (s := State.reset) chosen_legal wf_reset rfl

end Sys2Proof.Machine

/-! # The decoder, and what one cycle and one byte write (spec/10_state.md, spec/30_encoding.md R84 to R90,
spec/41_stream_reassembler.md R120 to R133)

One lemma per row says what a pushed byte does to the phase; `cycleCase_of_step` carries it to the cycle. Noise in
Seeking is followed by `windowAfter`, the window as a function of the bytes consumed. -/

namespace Sys2Proof

open Machine

/-! ## What the decoder accepts (R35, R70, R81, R84 to R87) -/

/-- Two command words agree on every bit that R85's row of the second one looks at. -/
def AgreeWhereLookedAt (v w : CommandWord) : Prop :=
  cwRst v = cwRst w ∧
    (cwRst w = false →
      cwInValid v = cwInValid w ∧ cwCsrWe v = cwCsrWe w ∧
      (cwInValid w = true → cwInData v = cwInData w) ∧
      (cwCsrWe w = true → cwCsrAddr v = cwCsrAddr w ∧ cwCsrWdata v = cwCsrWdata w))

/-- The sub-decode answers a row of PUSH that is well-formed, that the context selects, and that has the command word
of the byte (R86, R91). -/
theorem decodePush_ok {c : PushContext} {b : Byte} {i : Instr} (h : decodePush c b = .ok i) :
    i.wellFormed = true ∧ i.selectedIn c = true ∧ encode i = [.command (pushCommand b)] := by
  unfold decodePush at h
  cases hst : c.st <;> simp only [hst] at h
  case seek =>
    cases h
    unfold decodePushSeek
    split
    case isTrue hc =>
      exact ⟨decide_eq_true ((candidate_eq_sentinel c.win b).1 hc).2, decide_eq_true ⟨hst, hc⟩, rfl⟩
    case isFalse hc => exact ⟨rfl, decide_eq_true ⟨hst, hc⟩, rfl⟩
  case hdr =>
    unfold decodePushHdr at h
    split at h
    case h_9 => cases h
    all_goals
      rename_i hw
      cases h
      exact ⟨rfl, decide_eq_true ⟨hst, BitVec.eq_of_toNat_eq hw⟩, rfl⟩
  case pay =>
    unfold decodePushPay at h
    split at h
    case isTrue => cases h
    case isFalse hw => cases h; exact ⟨rfl, decide_eq_true ⟨hst, hw⟩, rfl⟩

/-- A CSR write alone in its cycle: both rows have the command word of the address and the value (R153). -/
theorem decodeWrcsr_ok (c : PushContext) (a : CsrAddr) (v : Half) :
    (decodeWrcsr a v).wellFormed = true ∧ (decodeWrcsr a v).selectedIn c = true ∧
      encode (decodeWrcsr a v) = [.command (packCommand false false true a v 0)] := by
  unfold decodeWrcsr
  split
  case isTrue ha => subst ha; exact ⟨rfl, rfl, rfl⟩
  case isFalse ha => exact ⟨decide_eq_true ha, rfl, rfl⟩

/-- What the operation decode accepts is well-formed and selected, and its command word agrees with the one read
wherever its row looks (R84, R85). -/
theorem decodeCommand_ok {c : PushContext} {w : CommandWord} {i : Instr} (h : decodeCommand c w = .ok i) :
    i.wellFormed = true ∧ i.selectedIn c = true ∧ ∃ v, encode i = [.command v] ∧ AgreeWhereLookedAt v w := by
  unfold decodeCommand at h
  cases hr : cwRst w with
  | true =>
    rw [if_pos hr] at h
    cases h
    exact ⟨rfl, rfl, _, rfl, by simp [AgreeWhereLookedAt, hr]⟩
  | false =>
    rw [if_neg (by simp [hr])] at h
    cases hv : cwInValid w <;> cases hc : cwCsrWe w <;> simp only [hv, hc] at h
    case false.false => cases h; exact ⟨rfl, rfl, _, rfl, by simp [AgreeWhereLookedAt, hr, hv, hc]⟩
    case false.true =>
      cases h
      obtain ⟨hwf, hsel, henc⟩ := decodeWrcsr_ok c (cwCsrAddr w) (cwCsrWdata w)
      exact ⟨hwf, hsel, _, henc, by simp [AgreeWhereLookedAt, hr, hv, hc]⟩
    case true.false =>
      obtain ⟨hwf, hsel, henc⟩ := decodePush_ok h
      exact ⟨hwf, hsel, _, henc, by simp [AgreeWhereLookedAt, pushCommand, hr, hv, hc]⟩
    case true.true => cases h; exact ⟨rfl, rfl, _, rfl, by simp [AgreeWhereLookedAt, hr, hv, hc]⟩

/-- The read row of each of the sixteen addresses (R35). -/
theorem decodeCsrRead_ok : ∀ a : CsrAddr,
    (decodeCsrRead a).wellFormed = true ∧ encode (decodeCsrRead a) = [.csrRead a] := by
  decide

/-- The event row of each of the four codes (R87). -/
theorem decodeEvent_ok : ∀ k : BitVec 2, (decodeEvent k).wellFormed = true ∧ encode (decodeEvent k) = [.event k] := by
  decide

/-- The message types left to FRAME.UNLISTED (R82). -/
theorem isUnlisted_iff (t : Half) : isUnlisted t = true ↔
    ¬ t.toNat ≤ 3 ∧ ¬ isDeviceCmd t = true ∧ ¬ isLegacySetup t = true ∧ ¬ t = 0x0201 ∧ ¬ t = 0x0202 := by
  simp only [isUnlisted, BitVec.toNat_eq]
  simp [and_assoc]

/-- The row of a message type is well-formed if the payload has the length of the size field (R72, R81, R82). -/
theorem decodeFrameRow_wellFormed {size : Half} {data : List Byte} (hd : data.length = size.toNat)
    (crc t f : Half) : (decodeFrameRow size crc t f data).wellFormed = true := by
  have hs : sizeAgrees size data = true := decide_eq_true hd
  unfold decodeFrameRow
  split_ifs with h0 h1 h2 h3 hdev hleg hlife1 hlife2
  case neg =>
    have ht : isUnlisted t = true := (isUnlisted_iff t).2 ⟨by bv_omega, hdev, hleg, hlife1, hlife2⟩
    simp only [Instr.wellFormed, ht, hs, Bool.and_self]
  all_goals simp [Instr.wellFormed, *]

/-- Whichever row a message type has, its bytes are those of the fields (R70). -/
theorem encode_decodeFrameRow (size crc t f : Half) (data : List Byte) :
    encode (decodeFrameRow size crc t f data) = [.frame (frameBytes size crc t f data)] := by
  unfold decodeFrameRow
  split_ifs <;> simp [encode, *]

/-- A byte string read as a frame gives a well-formed row whose encoding is the string (R70, R90). -/
theorem decodeFrame_ok {bytes : List Byte} {i : Instr} (h : decodeFrame bytes = .ok i) :
    i.wellFormed = true ∧ encode i = [.frame bytes] := by
  unfold decodeFrame at h
  split at h
  case h_2 => cases h
  case h_1 =>
    split_ifs at h with hs hd
    cases h
    refine ⟨decodeFrameRow_wellFormed (not_not.1 hd) _ _ _, ?_⟩
    rw [encode_decodeFrameRow]
    simp only [frameBytes, coveredBytes, hiByte_half, loByte_half, ← not_not.1 hs, List.cons_append, List.nil_append]

/-- Settles O2, by the format of the object read. -/
theorem decoderKeepsEveryBitItsRowLooksAt : Obligations.DecoderKeepsEveryBitItsRowLooksAt := by
  intro c e i h
  cases e with
  | command w =>
    obtain ⟨hwf, -, v, henc, hagree⟩ := decodeCommand_ok h
    refine ⟨hwf, fun hne => absurd rfl (hne w), ?_⟩
    rintro w' ⟨⟩
    exact ⟨v, henc, hagree⟩
  | csrRead a => cases h; exact ⟨(decodeCsrRead_ok a).1, fun _ => (decodeCsrRead_ok a).2, nofun⟩
  | pbRead p => cases h; exact ⟨rfl, fun _ => rfl, nofun⟩
  | frame bytes => exact ⟨(decodeFrame_ok h).1, fun _ => (decodeFrame_ok h).2, nofun⟩
  | formatWord f => cases h; exact ⟨rfl, fun _ => rfl, nofun⟩
  | event k => cases h; exact ⟨(decodeEvent_ok k).1, fun _ => (decodeEvent_ok k).2, nofun⟩

/-- In a state that meets the invariants the sub-decode selects a row for every byte (R40, R86). -/
theorem decodePush_total {s : State} (hi : Inv s) (b : Byte) : ∃ i, decodePush s.context b = .ok i := by
  obtain ⟨_, hp⟩ := push_total (b := b) hi
  exact decodePush_of_push hp

/-- In a state that meets the invariants the operation decode rejects no command word (R85, R88). -/
theorem decodeCommand_total {s : State} (hi : Inv s) (w : CommandWord) : ∃ i, decodeCommand s.context w = .ok i := by
  unfold decodeCommand
  split
  · exact ⟨_, rfl⟩
  · split
    case h_3 => exact decodePush_total hi (cwInData w)
    all_goals exact ⟨_, rfl⟩

/-- Settles O4: the decoder answers, and what it answers is selected and well-formed. -/
theorem everyCommandWordDecodes : Obligations.EveryCommandWordDecodes := by
  intro s w hi
  obtain ⟨i, h⟩ := decodeCommand_total hi w
  obtain ⟨hwf, hsel, -⟩ := decodeCommand_ok h
  exact ⟨i, h, hsel, hwf⟩

/-- Settles O5: the ten words are evaluated. -/
theorem writtenWordsDecode : Obligations.WrittenWordsDecode := by
  unfold Obligations.WrittenWordsDecode
  decide

end Sys2Proof

namespace Sys2Proof.Machine

/-! ## One byte, by phase (R120) -/

@[simp] theorem pushSeekByte_st (b : Byte) (s : State) : (s.pushSeekByte b).st = s.st := by
  unfold State.pushSeekByte; split <;> rfl

@[simp] theorem pushSeekByte_wait (b : Byte) (s : State) : (s.pushSeekByte b).wait = s.wait := by
  unfold State.pushSeekByte; split <;> rfl

/-- The end of a frame returns to Seeking, whatever the verdict (R121, R134). -/
theorem complete_st_wait (c : Half) (s : State) : (s.complete c).st = .seek ∧ (s.complete c).wait = 0 := by
  obtain ⟨hst, -, -, hwait⟩ := takeEvent_fresh (verdict c s.crcRx) s (verdict_ne_desync c s.crcRx)
  exact ⟨hst, hwait⟩

/-- A header byte before the last keeps HeaderFound and counts WAIT down (R124 to R131). -/
theorem push_header_countDown {b : Byte} {s t : State} (h : s.push b = .next t) (hst : s.st = .hdr)
    (hw : 2 ≤ s.wait.toNat) : t.st = .hdr ∧ t.wait = s.wait - 1 := by
  have h : s.pushHeader b = .next t := by simpa [State.push, hst] using h
  unfold State.pushHeader at h
  split at h
  case h_8 hw1 => omega
  case h_9 => cases h
  all_goals
    cases h
    exact ⟨hst, rfl⟩

/-- The last header byte of a frame that has no payload phase: oversized or empty (R132). -/
theorem push_header_ends {b : Byte} {s t : State} (h : s.push b = .next t) (hst : s.st = .hdr) (hw : s.wait = 1)
    (hs : s.maxSize < s.size ∨ s.size = 0) : t.st = .seek ∧ t.wait = 0 := by
  rw [push_hdr1 hst hw] at h
  cases h
  rcases hs with hover | hempty
  · rw [State.pushFmtLo, endHeader_over (by exact hover)]; exact ⟨rfl, rfl⟩
  · rw [State.pushFmtLo, endHeader_empty (by exact hempty)]; exact complete_st_wait _ _

/-- The last header byte of a frame with a payload within the bound (R132). -/
theorem push_header_opens_payload {b : Byte} {s t : State} (h : s.push b = .next t) (hst : s.st = .hdr)
    (hw : s.wait = 1) (hpos : s.size ≠ 0) (hle : ¬ s.maxSize < s.size) : t.st = .pay ∧ t.wait = s.size := by
  rw [push_hdr1 hst hw] at h
  cases h
  rw [State.pushFmtLo, endHeader_payload (by exact hpos) (by exact hle)]
  exact ⟨rfl, rfl⟩

/-- A payload byte is stored and covered, then decides (R133). -/
theorem eq_endPayload_of_push {b : Byte} {s t : State} (h : s.push b = .next t) (hst : s.st = .pay) :
    t = ((s.pbWrite s.payloadIndex b).cover b).endPayload := by
  have h : (if s.payloadOpen then s.pushPayload b else .refused .pushUndefined) = Host.Outcome.next t := by
    simpa [State.push, hst] using h
  unfold State.pushPayload at h
  split_ifs at h
  cases h
  rfl

/-- A payload byte before the last counts WAIT down (R133). -/
theorem push_payload_countDown {b : Byte} {s t : State} (h : s.push b = .next t) (hst : s.st = .pay)
    (hw : s.wait ≠ 1) : t.st = .pay ∧ t.wait = s.wait - 1 := by
  rw [eq_endPayload_of_push h hst, endPayload_more (by exact hw)]
  exact ⟨hst, rfl⟩

/-- The last payload byte ends the frame (R133, R134). -/
theorem push_payload_ends {b : Byte} {s t : State} (h : s.push b = .next t) (hst : s.st = .pay)
    (hw : s.wait = 1) : t.st = .seek ∧ t.wait = 0 := by
  rw [eq_endPayload_of_push h hst, endPayload_last (by exact hw)]
  exact complete_st_wait _ _

/-- In Seeking, with room under the scan ceiling, a byte raises nothing (R122, R123). -/
theorem push_seek_quiet {b : Byte} {s t : State} (h : s.push b = .next t) (hst : s.st = .seek)
    (hcnt : s.seekCnt.toNat + 1 ≤ s.cfg.scanCeiling.toNat) : t.evValid = false := by
  by_cases hc : candidate s.win b = sentinel
  · rw [push_seek_match hst hc] at h; cases h; rfl
  · rw [push_seek_nomatch hst hc hcnt] at h; cases h; rfl

/-! ## One cycle: with a byte and without -/

/-- A cycle with a byte and no reset is the PUSH of the byte; a CSR write beside it changes only MAX_SIZE (R154). -/
theorem push_of_step {s t : State} (h : step s = .next t) (hr : s.nextInput.rst = false)
    (hv : s.nextInput.inValid = true) :
    ∃ u, s.latched.push s.nextInput.inData = .next u ∧ t.st = u.st ∧ t.wait = u.wait ∧ t.evValid = u.evValid := by
  cases cycleCase_of_step h with
  | reset hr' => simp [hr] at hr'
  | quiet _ hv' => simp [hv] at hv'
  | write _ hv' => simp [hv] at hv'
  | push _ _ _ hp => exact ⟨t, hp, rfl, rfl, rfl⟩
  | @pushWrite u _ _ _ hp => exact ⟨u, hp, by simp⟩

/-- A cycle without a byte and without a reset keeps the phase (R151, R153). -/
theorem phase_of_step_without_byte {s t : State} (h : step s = .next t) (hr : s.nextInput.rst = false)
    (hv : s.nextInput.inValid = false) : t.st = s.st ∧ t.wait = s.wait := by
  cases cycleCase_of_step h with
  | reset hr' => simp [hr] at hr'
  | quiet => exact ⟨rfl, rfl⟩
  | write => simp [State.wrcsr, State.latched, State.withEnv]
  | push _ hv' => simp [hv] at hv'
  | pushWrite _ hv' => simp [hv] at hv'

/-- A cycle that resets or brings no byte raises nothing (R150, R151, R153, R178). -/
theorem evValid_of_step_without_push {s t : State} (h : step s = .next t)
    (hn : s.nextInput.rst = true ∨ s.nextInput.inValid = false) : t.evValid = false := by
  cases cycleCase_of_step h with
  | reset => rfl
  | quiet => rfl
  | write => rfl
  | push hr hv => simp [hr, hv] at hn
  | pushWrite hr hv => simp [hr, hv] at hn

theorem toNat_sub_one {v : Half} (h : 1 ≤ v.toNat) : (v - 1).toNat = v.toNat - 1 :=
  BitVec.toNat_sub_of_le (BitVec.le_def.2 h)

/-- Settles O11, row by row of the transition table. -/
theorem phaseTransitions : Obligations.PhaseTransitions := by
  intro s t hi h hr
  refine ⟨phase_of_step_without_byte h hr, fun hv => ?_⟩
  obtain ⟨u, hp, hst', hwait', -⟩ := push_of_step h hr hv
  rw [hst', hwait']
  refine ⟨fun hst hc => ?_, fun hst hc => ?_, fun hst hw => ?_, fun hst hw hs => ?_, fun hst hw hpos hle => ?_,
    fun hst hw => ?_, fun hst hw => ?_⟩
  · rw [push_seek (s := s.latched) hst hc] at hp
    cases hp
    rw [pushSeekByte_st, pushSeekByte_wait]
    exact ⟨hst, (hi.seek_parked hst).1⟩
  · rw [push_seek_match (s := s.latched) hst hc] at hp
    cases hp
    exact ⟨rfl, rfl⟩
  · obtain ⟨hu, hwait⟩ := push_header_countDown hp hst hw
    exact ⟨hu, by rw [hwait]; exact toNat_sub_one (Nat.le_of_succ_le hw)⟩
  · exact push_header_ends hp hst hw (hs.imp_left BitVec.lt_def.2)
  · exact push_header_opens_payload (s := s.latched) hp hst hw (fun hz : s.size = 0 => by simp [hz] at hpos)
      fun hlt => Nat.not_lt.2 hle (BitVec.lt_def.1 hlt)
  · obtain ⟨hu, hwait⟩ := push_payload_countDown hp hst (fun hone : s.wait = 1 => by simp [hone] at hw)
    exact ⟨hu, by rw [hwait]; exact toNat_sub_one (Nat.le_of_succ_le hw)⟩
  · exact push_payload_ends hp hst hw

/-- In a cycle that reports an event at least one more byte fits under the scan ceiling (R6, R179). -/
theorem seekCnt_lt_of_event {s : State} (hi : Inv s) (he : s.evValid = true) :
    s.seekCnt.toNat + 1 ≤ s.cfg.scanCeiling.toNat := by
  obtain ⟨-, hfresh, hdesync⟩ := hi.event_cycle he
  have hceil := hi.cfg_legal.1
  by_cases hk : s.evKind = .desyncNoise
  · rw [hdesync hk]; exact hceil
  · rw [(hfresh hk).2]; exact Nat.le_trans (by decide) hceil

/-- Settles O12: an event leaves Seeking with room under the ceiling, so the next byte raises nothing. -/
theorem eventsAreNeverConsecutive : Obligations.EventsAreNeverConsecutive := by
  intro s t hi he h
  by_cases hn : s.nextInput.rst = true ∨ s.nextInput.inValid = false
  · exact evValid_of_step_without_push h hn
  · obtain ⟨hr, hv⟩ : s.nextInput.rst = false ∧ s.nextInput.inValid = true := by simpa using hn
    obtain ⟨u, hp, -, -, hev⟩ := push_of_step h hr hv
    rw [hev]
    exact push_seek_quiet hp (hi.event_cycle he).1 (seekCnt_lt_of_event (latched_inv hi) he)

/-! ## What a cycle writes: the payload buffer and MAX_SIZE -/

theorem pbRead_writeCsr (a : CsrAddr) (v : Half) (s : State) (x : Nat) :
    (s.writeCsr a v).pbRead x = s.pbRead x := by
  simp

/-- Settles O16: of the five cases of a cycle only the two with a byte write the buffer. -/
theorem payloadBufferWrittenByPayloadBytesOnly : Obligations.PayloadBufferWrittenByPayloadBytesOnly := by
  intro s t h a
  cases cycleCase_of_step h with
  | reset hr => rw [if_neg (by simp [hr])]; rfl
  | quiet _ hv => rw [if_neg (by simp [hv])]; rfl
  | write _ hv =>
    rw [if_neg (by simp [hv])]
    exact pbRead_writeCsr s.nextInput.csrAddr s.nextInput.csrWdata s.latched a
  | push hr hv _ hp =>
    obtain ⟨-, -, -, -, -, hread⟩ := push_frame hp
    simp only [hr, hv, true_and]
    exact hread a
  | pushWrite hr hv _ hp =>
    obtain ⟨-, -, -, -, -, hread⟩ := push_frame hp
    rw [pbRead_writeCsr]
    simp only [hr, hv, true_and]
    exact hread a

/-- Settles O17: a RESET, a write with or without a byte beside it, and what leaves MAX_SIZE alone. -/
theorem maxSizeWrittenByWrcsrAndResetOnly : Obligations.MaxSizeWrittenByWrcsrAndResetOnly := by
  intro s t h
  cases cycleCase_of_step h with
  | reset hr => rw [if_pos hr]; rfl
  | quiet hr _ hc => rw [if_neg (by simp [hr]), if_neg (by simp [hc])]; rfl
  | write hr _ hc =>
    simp only [hr, hc, true_and, Bool.false_eq_true, if_false]
    exact writeCsr_max s.nextInput.csrAddr s.nextInput.csrWdata s.latched
  | push hr _ hc hp =>
    obtain ⟨-, -, -, hmax, -⟩ := push_frame hp
    rw [if_neg (by simp [hr]), if_neg (by simp [hc]), hmax]; rfl
  | pushWrite hr _ hc hp =>
    obtain ⟨hcfg, -, -, hmax, -⟩ := push_frame hp
    simp only [hr, hc, true_and, Bool.false_eq_true, if_false]
    rw [writeCsr_max, hcfg, hmax]; rfl

/-! ## RESET (R41, R150) -/

/-- Settles O18: RESET is `State.resetRegisters`, with the initial checksum of R7. -/
theorem resetWritesResetValues : Obligations.ResetWritesResetValues := fun _ => rfl

/-- Settles O19: each register is read off the reset state. -/
theorem resetStateRegisters : Obligations.ResetStateRegisters :=
  ⟨rfl, rfl, rfl, rfl, rfl, rfl, rfl, rfl, rfl, rfl, rfl, rfl⟩

/-! ## Payload bytes (R133) -/

theorem payloadOpen_iff (s : State) :
    s.payloadOpen = true ↔ 1 ≤ s.wait.toNat ∧ s.wait.toNat ≤ s.size.toNat := decide_eq_true_iff

theorem payloadIndex_eq {s : State} (h : s.wait.toNat ≤ s.size.toNat) :
    s.payloadIndex = s.size.toNat - s.wait.toNat :=
  BitVec.toNat_sub_of_le (BitVec.le_def.2 h)

/-- Where R133 gives PUSH.PAY an effect, the row is the pushed payload byte. -/
theorem exec_pushPay {s : State} (hst : s.st = .pay) (ho : s.payloadOpen = true) (b : Byte) :
    exec (.pushPay b) s = s.pushPayload b := by
  show whenSelected (decide (s.st = .pay) && s.payloadOpen) (s.pushPayload b) = _
  simp [whenSelected, hst, ho]

/-- Settles O28: the byte is stored in its cell and covered, and WAIT counts down. -/
theorem payloadByteBeforeTheLast : Obligations.PayloadByteBeforeTheLast := by
  intro b s hst hw hle hceil
  have ho : s.payloadOpen = true := (payloadOpen_iff s).2 ⟨by omega, hle⟩
  have hcell : s.payloadIndex < s.cfg.maxSizeCeiling.toNat := by rw [payloadIndex_eq hle]; omega
  have hmore : s.wait ≠ 1 := by rintro hone; simp [hone] at hw
  refine ⟨Memory.store s.pbuf s.payloadIndex b, ?_, fun a => lookup_store s.pbuf s.payloadIndex a b⟩
  rw [exec_pushPay hst ho, State.pushPayload, if_pos hcell, endPayload_more (by exact hmore)]
  rfl

/-! ## Where PUSH has no meaning (R124, R133; assumption log 7) -/

/-- A byte in HeaderFound at a WAIT that no rule lists. -/
theorem push_header_undefined {s : State} (hst : s.st = .hdr) (hw : s.wait.toNat = 0 ∨ 8 < s.wait.toNat) (b : Byte) :
    s.push b = .refused .pushUndefined := by
  simp only [State.push, hst, State.pushHeader]
  split
  case h_9 => rfl
  all_goals omega

/-- A byte in AwaitingPayload with WAIT outside 1 to SIZE. -/
theorem push_payload_undefined {s : State} (hst : s.st = .pay) (hw : s.wait.toNat = 0 ∨ s.size.toNat < s.wait.toNat)
    (b : Byte) : s.push b = .refused .pushUndefined := by
  have ho : ¬ s.payloadOpen = true := by rw [payloadOpen_iff]; omega
  simp [State.push, hst, ho]

theorem feed_refused {b : Byte} {s : State} {r : Refusal} (h : s.push b = .refused r) (bs : List Byte) :
    feedBytes (b :: bs) s = .refused r := by
  rw [feed_cons, h]; rfl

/-- Settles O31: the first byte of the FEED is refused, and the payload byte's cell does not exist. -/
theorem pushOutsideReachableStatesStops : Obligations.PushOutsideReachableStatesStops := by
  refine ⟨fun b bs s hst hw => feed_refused (push_header_undefined hst hw b) bs,
    fun b bs s hst hw => feed_refused (push_payload_undefined hst hw b) bs, fun b s hst hw hle hceil => ?_⟩
  have hcell : ¬ s.payloadIndex < s.cfg.maxSizeCeiling.toNat := by rw [payloadIndex_eq hle]; omega
  rw [exec_pushPay hst ((payloadOpen_iff s).2 ⟨hw, hle⟩), State.pushPayload, if_neg hcell, payloadIndex_eq hle]

end Sys2Proof.Machine

namespace Sys2Proof.Machine

/-! ## Noise in Seeking (R22, R71, R122) -/

theorem hasSentinel_cons (b : Byte) (bs : List Byte) :
    hasSentinel (b :: bs) = true ↔ sentinelBytes <+: b :: bs ∨ hasSentinel bs = true := by
  match bs with
  | [] | [_] | [_, _] => simp [hasSentinel, sentinelBytes]
  | x :: y :: z :: rest =>
    simp only [hasSentinel, sentinelBytes, Bool.or_eq_true, decide_eq_true_eq, List.cons_prefix_cons, List.nil_prefix,
      and_true, eq_comm (a := (0xAA : Byte)), eq_comm (a := (0x55 : Byte))]

/-- The scan finds the sentinel wherever it stands (R71). -/
theorem hasSentinel_iff (bytes : List Byte) : hasSentinel bytes = true ↔ sentinelBytes <:+: bytes := by
  induction bytes with
  | nil => simp [hasSentinel, sentinelBytes]
  | cons b bs ih => rw [hasSentinel_cons, ih, List.infix_cons_iff]

/-- No part of a sentinel-free string holds the sentinel. -/
theorem hasSentinel_false_of_infix {xs ys : List Byte} (h : xs <:+: ys) (hy : hasSentinel ys = false) :
    hasSentinel xs = false := by
  rw [← Bool.not_eq_true, hasSentinel_iff] at hy ⊢
  exact fun hx => hy (hx.trans h)

/-- The window after the bytes, from an empty one (R22, R122). -/
def windowAfter (bytes : List Byte) : Window := bytes.foldl shiftWindow 0

@[simp] theorem windowAfter_snoc (bytes : List Byte) (b : Byte) :
    windowAfter (bytes ++ [b]) = shiftWindow (windowAfter bytes) b := by
  simp [windowAfter]

/-- The shift as the spec writes it, the concatenation cut to 24 bits. -/
theorem shiftWindow_eq_setWidth (w : Window) (b : Byte) : shiftWindow w b = BitVec.setWidth 24 (w ++ b) := by
  apply BitVec.eq_of_toNat_eq
  have hb := b.isLt
  rw [shiftWindow_toNat, BitVec.toNat_setWidth, append_toNat]
  omega

/-- A window whose last byte is not zero has seen that byte last. -/
theorem eq_snoc_of_windowAfter {bytes : List Byte} (h : (windowAfter bytes).toNat % 256 ≠ 0) :
    ∃ init b, bytes = init ++ [b] ∧ b.toNat = (windowAfter bytes).toNat % 256 ∧
      (windowAfter init).toNat % 65536 = (windowAfter bytes).toNat / 256 := by
  induction bytes using List.reverseRecOn with
  | nil => simp [windowAfter] at h
  | append_singleton init b =>
    have hb := b.isLt
    refine ⟨init, b, rfl, ?_, ?_⟩ <;> rw [windowAfter_snoc, shiftWindow_toNat] <;> omega

/-- The window stands one byte before a sentinel only where the last three bytes were the sentinel's first three: the
zeros of a window not yet filled are none of its bytes. -/
theorem suffix_of_windowAfter {bytes : List Byte} (h : windowAfter bytes = 0xAA55AA) :
    [0xAA, 0x55, 0xAA] <:+ bytes := by
  have h : (windowAfter bytes).toNat = 0xAA55AA := by rw [h]; rfl
  obtain ⟨i₁, b₁, rfl, hb₁, hw₁⟩ := eq_snoc_of_windowAfter (bytes := bytes) (by omega)
  obtain ⟨i₂, b₂, rfl, hb₂, hw₂⟩ := eq_snoc_of_windowAfter (bytes := i₁) (by omega)
  obtain ⟨i₃, b₃, rfl, hb₃, -⟩ := eq_snoc_of_windowAfter (bytes := i₂) (by omega)
  obtain rfl : b₁ = 0xAA := BitVec.eq_of_toNat_eq (by rw [hb₁, h]; rfl)
  obtain rfl : b₂ = 0x55 := BitVec.eq_of_toNat_eq (by simp; omega)
  obtain rfl : b₃ = 0xAA := BitVec.eq_of_toNat_eq (by simp; omega)
  exact ⟨i₃, by simp⟩

/-- A byte after which the string still holds no sentinel completes none (R123). -/
theorem candidate_windowAfter_ne {bytes : List Byte} {b : Byte} (h : hasSentinel (bytes ++ [b]) = false) :
    candidate (windowAfter bytes) b ≠ sentinel := by
  intro hc
  obtain ⟨hw, rfl⟩ := (candidate_eq_sentinel _ _).1 hc
  obtain ⟨init, rfl⟩ := suffix_of_windowAfter hw
  have hs : hasSentinel (init ++ [0xAA, 0x55, 0xAA] ++ [0x55]) = true :=
    (hasSentinel_iff _).2 ⟨init, [], by simp [sentinelBytes]⟩
  rw [h] at hs
  cases hs

theorem feed_snoc {xs : List Byte} {b : Byte} {s t u : State} (hfeed : feedBytes xs s = .next t)
    (hpush : t.push b = .next u) : feedBytes (xs ++ [b]) s = .next u := by
  rw [feed_append, hfeed]
  exact feed_next hpush

/-- Noise up to the scan ceiling, from a fresh Seeking: counted, windowed and not reported (R122). -/
theorem feed_quiet_noise {noise : List Byte} {s : State} (hf : s.FreshSeek) (hl : s.cfg.Legal)
    (hn : hasSentinel noise = false) (hlen : noise.length ≤ s.cfg.scanCeiling.toNat) :
    ∃ t, feedBytes noise s = .next t ∧ t.st = .seek ∧ t.cfg = s.cfg ∧ t.events = s.events ∧
      t.seekCnt.toNat = noise.length ∧ t.win = windowAfter noise := by
  obtain ⟨hst, hwin, hcnt, -⟩ := hf
  induction noise using List.reverseRecOn with
  | nil => exact ⟨s, rfl, hst, rfl, rfl, by simp [hcnt], hwin⟩
  | append_singleton noise b ih =>
    rw [List.length_append, List.length_singleton] at hlen
    obtain ⟨t, hfeed, hst, hcfg, hev, hcnt, hwin⟩ :=
      ih (hasSentinel_false_of_infix (List.prefix_append noise [b]).isInfix hn) (by omega)
    have hpush := push_seek_nomatch (b := b) hst (by rw [hwin]; exact candidate_windowAfter_ne hn)
      (by rw [hcnt, hcfg]; exact hlen)
    have hroom := hl.2
    refine ⟨_, feed_snoc hfeed hpush, hst, hcfg, hev, ?_, ?_⟩
    · show (t.seekCnt + 1).toNat = _
      rw [BitVec.toNat_add_of_lt (by rw [hcnt]; simp; omega), hcnt]
      simp
    · show shiftWindow t.win b = _
      rw [hwin, windowAfter_snoc]

/-- Settles O48, by the run over quiet noise. -/
theorem quietNoiseFillsTheWindow : Obligations.QuietNoiseFillsTheWindow := by
  intro noise s hf hl hn hlen
  obtain ⟨t, hfeed, hst, -, hev, hcnt, hwin⟩ := feed_quiet_noise hf hl hn hlen
  have hfold : shiftWindow = fun w b => BitVec.setWidth 24 (w ++ b) := funext₂ shiftWindow_eq_setWidth
  exact ⟨t, hfeed, hst, hev, hcnt, by rw [hwin, windowAfter, hfold]⟩

end Sys2Proof.Machine

namespace Sys2Proof.Machine

/-! ## What a payload read shows (R58, R156) -/

/-- R58: no cell stands at or above the ceiling, and the read shows 0x00. -/
theorem pbRead_outside {s : State} {a : Nat} (h : s.cfg.maxSizeCeiling.toNat ≤ a) : s.pbRead a = 0 :=
  if_neg (Nat.not_lt.2 h)

theorem pbRead_stored {s : State} {a : Nat} {v : Byte} (ha : a < s.cfg.maxSizeCeiling.toNat)
    (hv : Memory.lookup s.pbuf a = some v) : s.pbRead a = v := by
  rw [State.pbRead, if_pos ha, hv, Option.getD_some]

/-- U5: a cell that nothing has written shows its power-up byte (the form of the freedom is assumption log 3). -/
theorem pbRead_unwritten {s : State} {a : Nat} (ha : a < s.cfg.maxSizeCeiling.toNat)
    (hv : Memory.lookup s.pbuf a = none) : s.pbRead a = Config.pbufPowerUp a := by
  rw [State.pbRead, if_pos ha, hv, Option.getD_none]

/-- RDPB puts the byte of the address on `pb_rdata` and leaves every other output and all of the state (R156). -/
theorem exec_rdpb_of_pbRead {p : Half} {s : State} {v : Byte} (h : s.pbRead p.toNat = v) :
    exec (.rdpb p) s = .next { s with out := { s.out with pbRdata := v } } := by
  rw [exec_rdpb, h]; rfl

/-- Settles O34, by the address: outside the buffer, a stored cell, a cell not yet written. -/
theorem payloadReadShowsTheCell : Obligations.PayloadReadShowsTheCell := fun _ _ =>
  ⟨fun hout => exec_rdpb_of_pbRead (pbRead_outside hout),
    fun _ hin hv => exec_rdpb_of_pbRead (pbRead_stored hin hv),
    fun hin hv => exec_rdpb_of_pbRead (pbRead_unwritten hin hv)⟩

end Sys2Proof.Machine

/-! # The encoding of every row, runs that never stop, and whole frames (spec/30_encoding.md, spec/40_frame_model.md
R109, spec/41_stream_reassembler.md R132 to R141)

A frame within the size bound is followed once, by `feed_frame_within_bounds`, to the one state `State.afterFrame`; the
claims about frame rows, FRAME and FRAME! are read off that state. -/

namespace Sys2Proof

open Machine

/-! ## Command words (R84 to R86, R91) -/

/-- Settles O3: the priority is the case split of the operation decode. -/
theorem commandDecodePriority : Obligations.CommandDecodePriority := by
  intro c r
  rw [decode_record]
  refine ⟨fun hr => ?_, fun hr hv hc => ?_, fun hr hv hc => ?_, fun hr hv hc => ?_, fun hr hv hc => ?_⟩
  · simp [hr]
  · simp [hr, hv, hc]
  · simp [hr, hv, hc, decodeWrcsr, apply_ite]
  · simp [hr, hv, hc]
  · simp [hr, hv, hc]

/-- The operation decode of a word packed from its fields (R84, R85). -/
theorem decode_packCommand (c : PushContext) (x y z : Bool) (a : CsrAddr) (v : Half) (b : Byte) :
    decode c (.command (packCommand x y z a v b)) =
      if x then .ok .reset
      else match y, z with
        | false, false => .ok .nop
        | false, true => .ok (decodeWrcsr a v)
        | true, false => decodePush c b
        | true, true => .ok (.pushWrcsr a v b) :=
  decode_record c ⟨x, y, b, z, a, v, 0⟩

theorem decode_pushCommand (c : PushContext) (b : Byte) : decode c (.command (pushCommand b)) = decodePush c b :=
  decode_packCommand c false true false 0 0 b

/-- A row of Seeking, in a context that selects it (R86, R122, R123). -/
theorem decode_pushCommand_seek {c : PushContext} {b : Byte} {i : Instr} (hst : c.st = .seek)
    (hi : decodePushSeek c.win b = i) : decode c (.command (pushCommand b)) = .ok i := by
  rw [decode_pushCommand, ← hi]; simp only [decodePush, hst]

/-- A row of HeaderFound, in a context that selects it (R86). -/
theorem decode_pushCommand_hdr {c : PushContext} {b : Byte} {w : Half} {i : Instr}
    (hsel : decide (c.st = .hdr ∧ c.wait = w) = true) (hi : decodePushHdr w b = .ok i) :
    decode c (.command (pushCommand b)) = .ok i := by
  obtain ⟨hst, hw⟩ := of_decide_eq_true hsel
  rw [decode_pushCommand, ← hi, ← hw]; simp only [decodePush, hst]

theorem decode_pushCommand_pay {c : PushContext} (b : Byte) (hst : c.st = .pay) (hw : c.wait ≠ 0) :
    decode c (.command (pushCommand b)) = .ok (.pushPay b) := by
  rw [decode_pushCommand]; simp only [decodePush, hst, decodePushPay, if_neg hw]

/-! ## Read addresses (R35, R155) -/

theorem decodeCsrRead_reserved : ∀ a : CsrAddr, 0xB ≤ a.toNat → decodeCsrRead a = .rdcsrReserved a := by
  decide

/-! ## The frame rows (R70, R81, R82) -/

theorem decodeFrameRow_deviceCmd {t : Half} (ht : isDeviceCmd t = true) (size crc f : Half) (data : List Byte) :
    decodeFrameRow size crc t f data = .frameDeviceCmd size crc t f data := by
  obtain ⟨hlo, hhi⟩ := of_decide_eq_true ht
  rw [decodeFrameRow, if_neg (by bv_omega), if_neg (by bv_omega), if_neg (by bv_omega), if_neg (by bv_omega), if_pos ht]

theorem decodeFrameRow_legacySetup {t : Half} (ht : isLegacySetup t = true) (size crc f : Half) (data : List Byte) :
    decodeFrameRow size crc t f data = .frameLegacySetup size crc t f data := by
  obtain ⟨hlo, hhi⟩ := of_decide_eq_true ht
  have hdev : ¬ isDeviceCmd t = true := fun h => by have := of_decide_eq_true h; omega
  rw [decodeFrameRow, if_neg (by bv_omega), if_neg (by bv_omega), if_neg (by bv_omega), if_neg (by bv_omega),
    if_neg hdev, if_pos ht]

theorem decodeFrameRow_unlisted {t : Half} (ht : isUnlisted t = true) (size crc f : Half) (data : List Byte) :
    decodeFrameRow size crc t f data = .frameUnlisted size crc t f data := by
  obtain ⟨hlo, hdev, hleg, hlife1, hlife2⟩ := (isUnlisted_iff t).1 ht
  rw [decodeFrameRow, if_neg (by bv_omega), if_neg (by bv_omega), if_neg (by bv_omega), if_neg (by bv_omega),
    if_neg hdev, if_neg hleg, if_neg hlife1, if_neg hlife2]

/-- The wire fields of a well-formed frame row: the payload has the length of the size field, and the row of the same
word is the one of its message type (R72, R81; assumption log 12). -/
theorem length_particular_of_frameFields {i : Instr} {size crc t f : Half} {data : List Byte}
    (h : frameFields i = some (size, crc, t, f, data)) (hwf : i.wellFormed = true) :
    data.length = size.toNat ∧ i.particular = decodeFrameRow size crc t f data := by
  cases i with
  | frame | frameKeepalive | framePositionReport | frameAck | frameNack | frameLifetimeHint1 | frameLifetimeHint2 =>
    cases h; exact ⟨of_decide_eq_true hwf, rfl⟩
  | frameDeviceCmd =>
    cases h
    obtain ⟨ht, hs⟩ := Bool.and_eq_true_iff.1 hwf
    exact ⟨of_decide_eq_true hs, (decodeFrameRow_deviceCmd ht _ _ _ _).symm⟩
  | frameLegacySetup =>
    cases h
    obtain ⟨ht, hs⟩ := Bool.and_eq_true_iff.1 hwf
    exact ⟨of_decide_eq_true hs, (decodeFrameRow_legacySetup ht _ _ _ _).symm⟩
  | frameUnlisted =>
    cases h
    obtain ⟨ht, hs⟩ := Bool.and_eq_true_iff.1 hwf
    exact ⟨of_decide_eq_true hs, (decodeFrameRow_unlisted ht _ _ _ _).symm⟩
  | _ => cases h

/-- A frame row's encoding is its bytes, and its meaning is the run of them (R70, R89; assumption log 11). -/
theorem encode_exec_of_frameFields {i : Instr} {size crc t f : Half} {data : List Byte}
    (h : frameFields i = some (size, crc, t, f, data)) :
    encode i = [.frame (frameBytes size crc t f data)] ∧
      ∀ s, exec i s = feedBytes (frameBytes size crc t f data) s := by
  cases i with
  | frame | frameKeepalive | framePositionReport | frameAck | frameNack | frameDeviceCmd | frameLegacySetup
  | frameLifetimeHint1 | frameLifetimeHint2 | frameUnlisted => cases h; exact ⟨rfl, fun _ => rfl⟩
  | _ => cases h

/-- The bytes of a frame decode to the row of its message type, with every field in its byte order (R51, R70). -/
theorem decodeFrame_frameBytes {size : Half} {data : List Byte} (hd : data.length = size.toNat) (crc t f : Half) :
    decodeFrame (frameBytes size crc t f data) = .ok (decodeFrameRow size crc t f data) := by
  simp [frameBytes, coveredBytes, sentinelBytes, decodeFrame, hd]

/-- Decode of encode, for the rows of the frame family. -/
theorem decode_encode_frame {i : Instr} {fields : Half × Half × Half × Half × List Byte}
    (h : frameFields i = some fields) (hwf : i.wellFormed = true) (c : PushContext) :
    ∃ e, encode i = [e] ∧ decode c e = .ok i.particular := by
  obtain ⟨size, crc, t, f, data⟩ := fields
  obtain ⟨hd, hpart⟩ := length_particular_of_frameFields h hwf
  exact ⟨_, (encode_exec_of_frameFields h).1, by rw [hpart]; exact decodeFrame_frameBytes hd crc t f⟩

/-- Settles O1, row by row: the command word is unpacked and the context selects the row; an address, a format word
and an event code stand for themselves; a frame's fields are read back from its bytes. -/
theorem decodeEncodeAgree : Obligations.DecodeEncodeAgree := by
  intro i c hwf hpseudo hsel
  cases i with
  | reset | nop | wrcsrMaxSize | pushWrcsr => exact ⟨_, rfl, decode_packCommand ..⟩
  | wrcsrIgnored a v =>
    refine ⟨_, rfl, (decode_packCommand ..).trans ?_⟩
    exact congrArg Except.ok (if_neg (of_decide_eq_true hwf))
  | pushSeek b =>
    obtain ⟨hst, hc⟩ := of_decide_eq_true hsel
    exact ⟨_, rfl, decode_pushCommand_seek hst (if_neg hc)⟩
  | pushSeekMatch b =>
    obtain ⟨hst, hc⟩ := of_decide_eq_true hsel
    exact ⟨_, rfl, decode_pushCommand_seek hst (if_pos hc)⟩
  | pushHdrSizeHi | pushHdrSizeLo | pushHdrCrcLo | pushHdrCrcHi | pushHdrTypeHi | pushHdrTypeLo | pushHdrFmtHi
  | pushHdrFmtLo => exact ⟨_, rfl, decode_pushCommand_hdr hsel rfl⟩
  | pushPay b =>
    obtain ⟨hst, hw⟩ := of_decide_eq_true hsel
    exact ⟨_, rfl, decode_pushCommand_pay b hst hw⟩
  | rdcsr | rdcsrMaxSize | rdcsrStatus | rdcsrSize | rdcsrCrcRx | rdcsrMsgType | rdcsrFormat | rdcsrWait | rdcsrCrcAcc
  | rdcsrSeekCnt | rdcsrWinLo | rdcsrWinHi | rdpb => exact ⟨_, rfl, rfl⟩
  | rdcsrReserved a => exact ⟨_, rfl, congrArg Except.ok (decodeCsrRead_reserved a (of_decide_eq_true hwf))⟩
  | frame | frameKeepalive | framePositionReport | frameAck | frameNack | frameDeviceCmd | frameLegacySetup
  | frameLifetimeHint1 | frameLifetimeHint2 | frameUnlisted => exact decode_encode_frame rfl hwf c
  | format16 | evFrameReady | evSizeOutOfBounds | evChecksumMismatch | evDesyncNoise => exact ⟨_, rfl, rfl⟩
  | idle | feed | framePseudo | frameForced => cases hpseudo

end Sys2Proof

namespace Sys2Proof.Machine

/-! ## The format word and IDLE -/

/-- Settles O37: the three fields as numbers. -/
theorem formatWordExtraction : Obligations.FormatWordExtraction := by
  intro f s
  have hcrypto : (decodeFormat f).cryptoType = BitVec.ofNat 3 (f.toNat % 8) := by
    rw [← decodeFormat_cryptoType_toNat, BitVec.ofNat_toNat, BitVec.setWidth_eq]
  have hcompress : (decodeFormat f).compressType = BitVec.ofNat 2 (f.toNat / 16 % 4) := by
    rw [← decodeFormat_compressType_toNat, BitVec.ofNat_toNat, BitVec.setWidth_eq]
  have hack : (decodeFormat f).ackRequired = decide (32768 ≤ f.toNat) :=
    Bool.eq_iff_iff.2 ((decodeFormat_ackRequired_iff f).trans decide_eq_true_iff.symm)
  rw [← hcrypto, ← hcompress, ← hack]
  rfl

/-- Any positive number of NOPs ends the strobe, and none does nothing (R92, R151). -/
theorem idleCycles_eq (n : Nat) (s : State) :
    s.idleCycles n = { s with evValid := s.evValid && decide (n = 0) } := by
  induction n generalizing s with
  | zero => simp [State.idleCycles]
  | succ n ih => rw [State.idleCycles, ih]; simp [State.quiet]

/-- Settles O46, by induction on the number of cycles. -/
theorem idleOnlyEndsTheStrobe : Obligations.IdleOnlyEndsTheStrobe :=
  fun n s => congrArg Host.Outcome.next (idleCycles_eq n s)

/-! ## Runs that never stop (R141, R176) -/

/-- Settles O45: bytes are pushed in order (`feed_append`). -/
theorem feedOfConcatenation : Obligations.FeedOfConcatenation := by
  intro xs ys s t (h : feedBytes xs s = .next t)
  show feedBytes (xs ++ ys) s = feedBytes ys t
  rw [feed_append, h]
  rfl

/-- One pushed byte only adds to the events reported (R171). -/
theorem events_prefix_of_push {b : Byte} {s t : State} (h : s.push b = .next t) : s.events <+: t.events := by
  obtain ⟨-, -, -, -, ⟨-, hev⟩ | ⟨-, hev⟩, -⟩ := push_frame h
  · rw [hev]
  · rw [hev]; exact List.prefix_append _ _

/-- Settles O44, by induction on the bytes: each is taken, keeps the invariants and leaves the same fields alone. -/
theorem feedCompletes : Obligations.FeedCompletes := by
  intro bytes
  induction bytes with
  | nil => exact fun s hi => ⟨s, rfl, hi, rfl, rfl, rfl, rfl, List.prefix_rfl⟩
  | cons b bytes ih =>
    intro s hi
    obtain ⟨u, hp⟩ := push_total (b := b) hi
    obtain ⟨hcfg, hin, hout, hmax, -, -⟩ := push_frame hp
    obtain ⟨t, hfeed, hit, hmax', hcfg', hin', hout', hev'⟩ := ih u (push_inv hi hp)
    exact ⟨t, (feed_next hp).trans hfeed, hit, hmax'.trans hmax, hcfg'.trans hcfg, hin'.trans hin,
      hout'.trans hout, (events_prefix_of_push hp).trans hev'⟩

/-- In a state that meets the invariants a cycle completes, whatever it presents (R85, R141). -/
theorem step_total {s : State} (hi : Inv s) : ∃ t, step s = .next t := by
  have hd := decode_record s.context s.nextInput
  cases hr : s.nextInput.rst with
  | true => exact ⟨_, step_of_decode (i := .reset) (by rw [hd]; simp [hr])⟩
  | false =>
    obtain ⟨u, hp⟩ := push_total (b := s.nextInput.inData) (latched_inv hi)
    cases hv : s.nextInput.inValid <;> cases hc : s.nextInput.csrWe
    case false.false => exact ⟨_, step_of_quiet hr hv hc⟩
    case false.true =>
      rw [step_of_decode (i := decodeWrcsr s.nextInput.csrAddr s.nextInput.csrWdata) (by rw [hd]; simp [hr, hv, hc])]
      exact ⟨_, exec_decodeWrcsr _ _ _⟩
    case true.false => exact ⟨u, (step_eq_next_iff_push hr hv hc).2 hp⟩
    case true.true =>
      rw [step_of_decode (i := .pushWrcsr s.nextInput.csrAddr s.nextInput.csrWdata s.nextInput.inData)
        (by rw [hd]; simp [hr, hv, hc])]
      exact ⟨_, andThen_next.2 ⟨u, hp, rfl⟩⟩

/-- Settles O10, by induction on the number of cycles: each completes (`step_total`) and keeps the invariants. -/
theorem noInputStopsTheMachine : Obligations.NoInputStopsTheMachine := by
  intro s hi k
  induction k generalizing s with
  | zero => exact ⟨s, rfl⟩
  | succ k ih =>
    obtain ⟨u, hstep⟩ := step_total hi
    obtain ⟨t, hrun⟩ := ih u (step_inv hi hstep)
    exact ⟨t, (run_of_step (M := Sys2Proof.core) hstep k).trans hrun⟩

/-! ## A frame within the size bound (R109, R132 to R134) -/

/-- The state after a frame within the size bound has been pushed: its fields in the holding registers, its payload in
the cells from 0 on, and its event taken. -/
def State.afterFrame (size crc t f : Half) (data : List Byte) (s : State) : State :=
  { s with
    size := size, crcRx := crc, msgType := t, format := f, crcAcc := crc16 (coveredBytes t f data)
    pbuf := Memory.storeAll s.pbuf 0 data, evValid := true
    evKind := if crc = crc16 (coveredBytes t f data) then .frameReady else .checksumMismatch
    events := s.events ++ [frameEvent size crc t f data] }

theorem enterSeek_of_fresh {s : State} (hf : s.FreshSeek) : s.enterSeek = s := by
  cases s
  obtain ⟨rfl, rfl, rfl, rfl⟩ := hf
  rfl

/-- The cells after a payload has been written from cell 0 on (R133). -/
theorem lookup_storeAll_zero (m : Memory) (data : List Byte) (a : Nat) :
    Memory.lookup (Memory.storeAll m 0 data) a = if a < data.length then data[a]? else Memory.lookup m a := by
  simp [lookup_storeAll]

/-- The checksum of a frame goes on from the checksum of its fixed region (R73, R104). -/
theorem crcRun_header (t f : Half) (data : List Byte) :
    crcRun (crc16 (coveredBytes t f [])) data = crc16 (coveredBytes t f data) := by
  rw [crc16_eq, crc16_eq, ← crcRun_append]; rfl

/-- The state in which a frame's verdict is reached: the fixed region loaded, the payload stored and covered. The phase
and WAIT are those of the last byte, of the fixed region or of the payload (R132, R133). -/
def State.frameLoaded (size crc t f : Half) (data : List Byte) (p : Phase) (w : Half) (s : State) : State :=
  { s.headerLoaded size crc t f with
    st := p, wait := w, crcAcc := crc16 (coveredBytes t f data), pbuf := Memory.storeAll s.pbuf 0 data }

/-- Completing a frame, from wherever its last byte was (R134, R171). -/
theorem complete_frameLoaded {size : Half} {data : List Byte} {s : State} (hf : s.FreshSeek)
    (hd : data.length = size.toNat) (hceil : size.toNat ≤ s.cfg.maxSizeCeiling.toNat) (crc t f : Half) (p : Phase)
    (w : Half) :
    (s.frameLoaded size crc t f data p w).complete (crc16 (coveredBytes t f data))
      = s.afterFrame size crc t f data := by
  have hpay : (s.frameLoaded size crc t f data p w).payload size.toNat = data :=
    payload_of_lookup _ data _ hd hceil fun a ha =>
      (lookup_storeAll_zero s.pbuf data a).trans (if_pos (by rw [hd]; exact ha))
  rw [complete_eq _ _ _ hpay]
  calc _ = s.enterSeek.afterFrame size crc t f data := rfl
    _ = s.afterFrame size crc t f data := by rw [enterSeek_of_fresh hf]

/-- A frame within the size bound, pushed from a fresh Seeking (R109, R132 to R134, R137). -/
theorem feed_frame_within_bounds {size : Half} {data : List Byte} {s : State} (hf : s.FreshSeek) (hl : s.cfg.Legal)
    (hd : data.length = size.toNat) (hsize : size.toNat ≤ s.maxSize.toNat)
    (hmax : s.maxSize.toNat ≤ s.cfg.maxSizeCeiling.toNat) (crc t f : Half) :
    feedBytes (frameBytes size crc t f data) s = .next (s.afterFrame size crc t f data) := by
  have hceil : size.toNat ≤ s.cfg.maxSizeCeiling.toNat := Nat.le_trans hsize hmax
  rw [feed_frame hf hl]
  by_cases h0 : size = 0
  · obtain rfl : data = [] := List.eq_nil_of_length_eq_zero (by rw [hd, h0]; rfl)
    rw [endHeader_empty (by exact h0)]
    exact congrArg Host.Outcome.next (complete_frameLoaded hf hd hceil crc t f .hdr 1)
  · have hpos : size.toNat ≠ 0 := fun h => h0 (BitVec.eq_of_toNat_eq h)
    rw [endHeader_payload (by exact h0) (show ¬ s.maxSize < size by rw [BitVec.lt_def]; omega),
      feed_payload data _ rfl (Nat.one_le_iff_ne_zero.2 hpos) (Nat.le_refl _) hceil hd]
    refine congrArg Host.Outcome.next (Eq.trans ?_ (complete_frameLoaded hf hd hceil crc t f .pay size))
    simp only [State.payloadDone, State.frameLoaded, State.headerLoaded, State.quiet, crcRun_header, Nat.sub_self]

/-- What is shown for an address after a frame: its payload in the first cells, the others as before (R58, R133). -/
theorem pbRead_afterFrame {data : List Byte} {s : State} (hceil : data.length ≤ s.cfg.maxSizeCeiling.toNat)
    (size crc t f : Half) (a : Nat) :
    (s.afterFrame size crc t f data).pbRead a = data[a]?.getD (s.pbRead a) := by
  have hlook := lookup_storeAll_zero s.pbuf data a
  by_cases ha : a < data.length
  · rw [if_pos ha, List.getElem?_eq_getElem ha] at hlook
    rw [List.getElem?_eq_getElem ha, Option.getD_some]
    exact pbRead_stored (Nat.lt_of_lt_of_le ha hceil) hlook
  · rw [if_neg ha] at hlook
    rw [List.getElem?_eq_none (Nat.not_lt.1 ha), Option.getD_none]
    simp only [State.pbRead, State.afterFrame, hlook]

/-- Settles O39: the row is its bytes, and they lead to `State.afterFrame`. -/
theorem frameWithinBoundsGivesItsEvent : Obligations.FrameWithinBoundsGivesItsEvent := by
  intro i size crc t f data s h hwf hf hl hsize hmax
  obtain ⟨hd, -⟩ := length_particular_of_frameFields h hwf
  refine ⟨Memory.storeAll s.pbuf 0 data, ?_, fun a => ?_⟩
  · rw [(encode_exec_of_frameFields h).2]
    exact feed_frame_within_bounds hf hl hd hsize hmax crc t f
  · rw [lookup_storeAll_zero, hd]

theorem ofNat_length_toNat {d : List Byte} {n : Half} (h : d.length ≤ n.toNat) :
    (BitVec.ofNat 16 d.length).toNat = d.length :=
  (BitVec.toNat_ofNat ..).trans (Nat.mod_eq_of_lt (Nat.lt_of_le_of_lt h n.isLt))

/-- The size field that FRAME and FRAME! write (R94, R108) is the number of payload bytes within the ceiling. -/
theorem feed_frame_of_length {d : List Byte} {s : State} (hf : s.FreshSeek) (hl : s.cfg.Legal)
    (hlen : d.length ≤ s.maxSize.toNat) (hmax : s.maxSize.toNat ≤ s.cfg.maxSizeCeiling.toNat) (crc t f : Half) :
    feedBytes (frameBytes (BitVec.ofNat 16 d.length) crc t f d) s
      = .next (s.afterFrame (BitVec.ofNat 16 d.length) crc t f d) := by
  have hd := ofNat_length_toNat hlen
  exact feed_frame_within_bounds hf hl hd.symm (by rw [hd]; exact hlen) hmax crc t f

/-- Settles O42: the event kind is decided by the comparison of the two checksums. -/
theorem forcedChecksumFrame : Obligations.ForcedChecksumFrame := by
  intro t f crc d s hf hl hlen hmax
  refine ⟨_, feed_frame_of_length hf hl hlen hmax crc t f, hf, rfl, rfl, ?_⟩
  by_cases hc : crc = crc16 (coveredBytes t f d) <;> simp [State.afterFrame, hc]

theorem resetRegisters_fresh (s : State) : s.resetRegisters.FreshSeek := ⟨rfl, rfl, rfl, rfl⟩

/-- Settles O41: a RESET leaves a fresh Seeking with MAX_SIZE at the ceiling, and the encoder's checksum is the right
one. -/
theorem encodedFrameRoundTrip : Obligations.EncodedFrameRoundTrip := by
  intro t f d s hl hlen
  have hf := resetRegisters_fresh s
  refine ⟨_, _, rfl, feed_frame_of_length hf hl hlen (Nat.le_refl _) _ t f, ?_, hf, rfl, if_pos rfl,
    fun a ha => ?_, fun a ha => ?_⟩
  · exact congrArg (fun e => s.events ++ [e]) (if_pos rfl)
  · rw [pbRead_afterFrame (s := s.resetRegisters) hlen, List.getElem?_eq_getElem ha, Option.getD_some]
  · rw [pbRead_afterFrame (s := s.resetRegisters) hlen, List.getElem?_eq_none ha, Option.getD_none]
    rfl

end Sys2Proof.Machine

/-! # The checksum's guarantee, the verdict over a whole frame, and recovery from noise (spec/40_frame_model.md R100,
R103 to R109, spec/41_stream_reassembler.md R122, R134, R139) -/

namespace Sys2Proof.Machine

/-! ## The checksum (R103 to R105, R108) -/

/-- The bit that R103 tests, as a comparison: on a number written out it can be evaluated. -/
theorem crcShift_eq_ite (c : Half) : crcShift c = if 0x8000 ≤ c then (c <<< 1) ^^^ crcPoly else c <<< 1 := by
  simp only [crcShift, BitVec.msb_eq_decide, BitVec.le_def, decide_eq_true_eq]
  rfl

/-- Settles O35: the checksums by evaluation, and the encoded frame carries the last of them, low byte first. -/
theorem crcExamples : Obligations.CrcExamples := by
  have hcheck : crc16 [0x31, 0x32, 0x33, 0x34, 0x35, 0x36, 0x37, 0x38, 0x39] = 0x29B1 := by
    simp [crc16_eq, crcRun, crcInit, crc16Update, crcShifts, crcShift_eq_ite, crcPoly, half]
  have hcovered : crc16 [0x00, 0x01, 0x00, 0x00, 0x12, 0x34] = 0xB787 := by
    simp [crc16_eq, crcRun, crcInit, crc16Update, crcShifts, crcShift_eq_ite, crcPoly, half]
  refine ⟨by decide, by decide, by decide, by decide, by decide, by decide, hcheck, hcovered, ?_⟩
  have hbytes : coveredBytes 0x0001 0x0000 [0x12, 0x34] = [0x00, 0x01, 0x00, 0x00, 0x12, 0x34] := by decide
  rw [encodeFrame, hbytes, hcovered]
  decide

/-- Settles O36: the two running values part at the damaged byte, and no later byte brings them together again. -/
theorem oneByteErrorChangesTheChecksum : Obligations.OneByteErrorChangesTheChecksum := by
  intro before after b c hbc heq
  rw [crc16_eq, crc16_eq, crcRun_append, crcRun_append] at heq
  have hparted : crc16Update (crcRun crcInit before) b = crc16Update (crcRun crcInit before) c :=
    crcRun_injective after heq
  exact hbc (crc16Update_injective_right _ hparted)

/-! ## The verdict over a whole frame (R100, R132, R134) -/

theorem frameEvent_of_crc_eq (size t f : Half) (data : List Byte) :
    frameEvent size (crc16 (coveredBytes t f data)) t f data = .frameReady
      { header := 0xAA55AA55, size := size, crc := crc16 (coveredBytes t f data), messageType := t, format := f
        data := data } :=
  if_pos rfl

theorem frameEvent_of_crc_ne {crc t f : Half} {data : List Byte} (h : crc ≠ crc16 (coveredBytes t f data))
    (size : Half) : frameEvent size crc t f data = .frameRejected .checksumMismatch :=
  if_neg h

/-- Settles O43: the checksum carried is that of the undamaged bytes, which O36 says is not the damaged ones'. -/
theorem damagedFrameGivesChecksumMismatch : Obligations.DamagedFrameGivesChecksumMismatch := by
  intro t f t' f' d d' before after b c s hf hl hlen hd hmax hbc hsent hcame
  have hcrc : crc16 (coveredBytes t f d) ≠ crc16 (coveredBytes t' f' d') := by
    rw [hsent, hcame]
    exact oneByteErrorChangesTheChecksum before after b c hbc
  refine ⟨_, feed_frame_of_length hf hl (hlen ▸ hd) hmax _ t' f', hf, ?_⟩
  exact congrArg (fun e => s.events ++ [e]) (frameEvent_of_crc_ne hcrc _)

/-- The size bound is tested first (R100). -/
theorem validate_over {maxSize size : Half} (h : maxSize.toNat < size.toNat) (header : BitVec 32) (crc c : Half) :
    validate maxSize header size crc c = .sizeOutOfBounds :=
  if_pos h

/-- Within the size bound the checksum alone decides (R100). -/
theorem validate_within {maxSize size : Half} (h : size.toNat ≤ maxSize.toNat) (header : BitVec 32) (crc c : Half) :
    validate maxSize header size crc c = if crc = c then .valid else .checksumMismatch := by
  rw [validate, if_neg (by rw [BitVec.lt_def]; omega), ite_not]

/-- The fixed region of a frame above the size bound ends in SizeOutOfBounds (R132). -/
theorem feed_fixed_region_over {size : Half} {s : State} (hf : s.FreshSeek) (hl : s.cfg.Legal)
    (h : s.maxSize.toNat < size.toNat) (crc t f : Half) :
    feedBytes (frameBytes size crc t f []) s = .next ((s.headerLoaded size crc t f).takeEvent .sizeOutOfBounds) := by
  rw [feed_frame hf hl, endHeader_over (by exact h)]
  rfl

/-- Settles O38, by the size bound, then by the checksum: the order in which validate tests them. -/
theorem hardwareAgreesWithValidate : Obligations.HardwareAgreesWithValidate := by
  intro size crc t f data s hf hl hmax hd
  by_cases hover : s.maxSize.toNat < size.toNat
  · simp only [if_pos hover, validate_over hover]
    refine ⟨_, feed_fixed_region_over hf hl hover crc t f, takeEvent_fresh _ _ (by simp), takeEvent_evValid _ _,
      takeEvent_events _ _, ?_⟩
    simp
  · have hsize : size.toNat ≤ s.maxSize.toNat := Nat.not_lt.1 hover
    simp only [if_neg hover, validate_within hsize]
    refine ⟨_, feed_frame_within_bounds hf hl hd hsize hmax crc t f, hf, rfl, rfl, ?_⟩
    by_cases hcrc : crc = crc16 (coveredBytes t f data) <;> simp [State.afterFrame, hcrc]

/-! ## Noise of any length, and the frame after it (R122, R139) -/

@[simp] theorem pushSeekByte_win (b : Byte) (s : State) : (s.pushSeekByte b).win = shiftWindow s.win b := by
  unfold State.pushSeekByte; split <;> rfl

/-- A byte that completes no sentinel reports nothing or DesyncNoise (R122). -/
theorem pushSeekByte_events (b : Byte) (s : State) :
    ∃ n, (s.pushSeekByte b).events = s.events ++ List.replicate n (.frameRejected .desyncNoise) := by
  unfold State.pushSeekByte
  split
  · exact ⟨1, rfl⟩
  · exact ⟨0, (List.append_nil _).symm⟩

/-- Noise of any length, from a fresh Seeking: the window goes on, whatever DesyncNoise does to the count (R122). -/
theorem feed_noise {noise : List Byte} {s : State} (hf : s.FreshSeek) (hn : hasSentinel noise = false) :
    ∃ (u : State) (n : Nat), feedBytes noise s = .next u ∧ u.st = .seek ∧ u.win = windowAfter noise ∧
      u.cfg = s.cfg ∧ u.maxSize = s.maxSize ∧
      u.events = s.events ++ List.replicate n (.frameRejected .desyncNoise) := by
  obtain ⟨hst, hwin, -, -⟩ := hf
  induction noise using List.reverseRecOn with
  | nil => exact ⟨s, 0, rfl, hst, hwin, rfl, rfl, (List.append_nil _).symm⟩
  | append_singleton noise b ih =>
    obtain ⟨u, n, hfeed, hst, hwin, hcfg, hmax, hev⟩ :=
      ih (hasSentinel_false_of_infix (List.prefix_append noise [b]).isInfix hn)
    have hpush := push_seek (b := b) hst (by rw [hwin]; exact candidate_windowAfter_ne hn)
    obtain ⟨hcfg', -, -, hmax', -, -⟩ := push_frame hpush
    obtain ⟨m, hev'⟩ := pushSeekByte_events b u
    refine ⟨_, n + m, feed_snoc hfeed hpush, (pushSeekByte_st b u).trans hst, ?_, hcfg'.trans hcfg, hmax'.trans hmax, ?_⟩
    · rw [pushSeekByte_win, hwin, windowAfter_snoc]
    · rw [hev', hev, List.append_assoc, List.replicate_append_replicate]

/-- Up to the scan ceiling the noise is quiet, so it has reported no DesyncNoise (R122). -/
theorem no_desync_of_short_noise {noise : List Byte} {s u : State} {n : Nat} (hf : s.FreshSeek) (hl : s.cfg.Legal)
    (hn : hasSentinel noise = false) (hlen : noise.length ≤ s.cfg.scanCeiling.toNat)
    (hfeed : feedBytes noise s = .next u)
    (hev : u.events = s.events ++ List.replicate n (.frameRejected .desyncNoise)) : n = 0 := by
  obtain ⟨v, hquiet, -, -, hsame, -⟩ := feed_quiet_noise hf hl hn hlen
  obtain rfl : u = v := Host.Outcome.next.inj (hfeed.symm.trans hquiet)
  simpa [hsame] using hev

/-- Three bytes fill the window, whatever it held (R22). -/
theorem windowAfter_sentinel_start (noise : List Byte) : windowAfter (noise ++ [0xAA, 0x55, 0xAA]) = 0xAA55AA := by
  apply BitVec.eq_of_toNat_eq
  simp only [windowAfter, List.foldl_append, List.foldl_cons, List.foldl_nil, shiftWindow_toNat,
    BitVec.reduceToNat]
  omega

/-- Once the window holds the sentinel's first three bytes, its last byte and the rest of a frame do what the whole
frame does from a fresh Seeking: the match of R123 overwrites all that the noise has left behind. -/
theorem feed_rest_of_frame {u : State} (hst : u.st = .seek) (hwin : u.win = 0xAA55AA) (hl : u.cfg.Legal)
    (rest : List Byte) : feedBytes (0x55 :: rest) u = feedBytes (sentinelBytes ++ rest) u.enterSeek := by
  rw [feed_next (push_seek_match hst ((candidate_eq_sentinel _ _).2 ⟨hwin, rfl⟩)),
    feed_sentinel (s := u.enterSeek) ⟨rfl, rfl, rfl, rfl⟩ hl]
  rfl

/-- Noise before a frame leaves nothing but its DesyncNoise events: the frame then runs as from a fresh Seeking
(R139). -/
theorem feed_noise_then_frame {noise rest : List Byte} {s : State} (hf : s.FreshSeek) (hl : s.cfg.Legal)
    (hn : hasSentinel (noise ++ [0xAA, 0x55, 0xAA]) = false) :
    ∃ (v : State) (n : Nat), feedBytes (noise ++ (sentinelBytes ++ rest)) s = feedBytes (sentinelBytes ++ rest) v ∧
      v.FreshSeek ∧ v.cfg = s.cfg ∧ v.maxSize = s.maxSize ∧
      v.events = s.events ++ List.replicate n (.frameRejected .desyncNoise) ∧
      (noise.length + 3 ≤ s.cfg.scanCeiling.toNat → n = 0) := by
  obtain ⟨u, n, hfeed, hst, hwin, hcfg, hmax, hev⟩ := feed_noise hf hn
  have hsplit : noise ++ (sentinelBytes ++ rest) = (noise ++ [0xAA, 0x55, 0xAA]) ++ 0x55 :: rest := by
    simp [sentinelBytes]
  refine ⟨u.enterSeek, n, ?_, ⟨rfl, rfl, rfl, rfl⟩, hcfg, hmax, hev, fun hlen => ?_⟩
  · rw [hsplit, feed_append, hfeed]
    exact feed_rest_of_frame hst (hwin.trans (windowAfter_sentinel_start noise)) (by rw [hcfg]; exact hl) rest
  · exact no_desync_of_short_noise hf hl hn (by simpa using hlen) hfeed hev

/-- Settles O50: past the noise the frame runs as from a fresh Seeking, and the encoder's checksum is the right one. -/
theorem recoveryFromNoise : Obligations.RecoveryFromNoise := by
  intro noise t f d s hf hl hlen hmax hn
  obtain ⟨v, n, hfeed, hfv, hcfg, hmv, hev, hquiet⟩ := feed_noise_then_frame hf hl hn
  have hframe : feedBytes (encodeFrame t f d) v = .next _ :=
    feed_frame_of_length hfv (by rw [hcfg]; exact hl) (by rw [hmv]; exact hlen) (by rw [hmv, hcfg]; exact hmax) _ t f
  refine ⟨_, n, hfeed.trans hframe, hfv, rfl, if_pos rfl, ?_, hquiet⟩
  rw [← hev, ← frameEvent_of_crc_eq]
  rfl

end Sys2Proof.Machine

/-! # The reassembler byte by byte (spec/41_stream_reassembler.md R121 to R134, R175, R211 to R214)

One rule per row says what it does where it is selected and that it is refused elsewhere. How long a cell or a holding
register keeps its value is read off `State.wireIndex`, the place in a frame that the next byte can have: a byte moves
it on by at most one. -/

namespace Sys2Proof.Machine

/-! ## Where a row of PUSH is selected, and where it is refused (R122 to R133; assumption log 7) -/

theorem whenSelected_pos {p : Prop} [Decidable p] (h : p) (o : Result) : whenSelected (decide p) o = o :=
  if_pos (decide_eq_true h)

theorem whenSelected_neg {p : Prop} [Decidable p] (h : ¬ p) (o : Result) :
    whenSelected (decide p) o = .refused .pushRowNotSelected :=
  if_neg (by rwa [decide_eq_true_eq])

/-- The condition of PUSH.PAY, as R133 writes it. -/
theorem exec_pushPay_eq (b : Byte) (s : State) :
    exec (.pushPay b) s
      = whenSelected (decide (s.st = .pay ∧ 1 ≤ s.wait.toNat ∧ s.wait.toNat ≤ s.size.toNat)) (s.pushPayload b) := by
  rw [Bool.decide_and]
  rfl

/-- Settles O30: each row is guarded by the condition of its own rule. -/
theorem unselectedPushRowsAreRefused : Obligations.UnselectedPushRowsAreRefused := fun b s =>
  ⟨fun h => whenSelected_neg h _, fun h => whenSelected_neg h _, fun h => whenSelected_neg h _,
    fun h => whenSelected_neg h _, fun h => whenSelected_neg h _, fun h => whenSelected_neg h _,
    fun h => whenSelected_neg h _, fun h => whenSelected_neg h _, fun h => whenSelected_neg h _,
    fun h => whenSelected_neg h _, fun h => (exec_pushPay_eq b s).trans (whenSelected_neg h _)⟩

/-! ## Taking an event (R170, R179) -/

/-- Settles O54: the four event rows are `State.takeEvent`, for each code. -/
theorem takingAnEvent : Obligations.TakingAnEvent := fun _ => ⟨rfl, rfl, rfl, rfl⟩

/-! ## Bytes in Seeking (R122, R123) -/

/-- A byte that would pass the scan ceiling is reported as noise, and the count restarts at 3 (R122, R175). -/
theorem pushSeekByte_over {b : Byte} {s : State} (h : s.cfg.scanCeiling.toNat < s.seekCnt.toNat + 1) :
    s.pushSeekByte b = { s with
      win := shiftWindow s.win b, seekCnt := 3, evValid := true, evKind := .desyncNoise
      events := s.events ++ [.frameRejected .desyncNoise] } :=
  if_pos h

/-- A byte under the scan ceiling is counted (R122). -/
theorem pushSeekByte_within {b : Byte} {s : State} (h : ¬ s.cfg.scanCeiling.toNat < s.seekCnt.toNat + 1) :
    s.pushSeekByte b = { s with win := shiftWindow s.win b, seekCnt := s.seekCnt + 1, evValid := false } :=
  if_neg h

/-- Settles O23, by whether the count would pass the ceiling. -/
theorem seekingByteWithoutMatch : Obligations.SeekingByteWithoutMatch := by
  intro b s hst hc
  have hrow : exec (.pushSeek b) s = .next (s.pushSeekByte b) := whenSelected_pos ⟨hst, hc⟩ _
  rw [hrow]
  by_cases hover : s.cfg.scanCeiling.toNat < s.seekCnt.toNat + 1
  · rw [if_pos hover, pushSeekByte_over hover]; rfl
  · rw [if_neg hover, pushSeekByte_within hover]; rfl

/-- Settles O24: the window and the byte are the sentinel. -/
theorem seekingByteWithMatch : Obligations.SeekingByteWithMatch := fun _ _ hst hwin hb =>
  whenSelected_pos ⟨hst, (candidate_eq_sentinel _ _).2 ⟨hwin, hb⟩⟩ _

/-! ## Bytes in HeaderFound (R124 to R132) -/

/-- A header byte before the last: what its row has loaded, `u`, with WAIT counted down and no event (R124). -/
theorem header_row {s u : State} {w : Half} (hst : s.st = .hdr) (hw : s.wait = w) (hu : u.wait = s.wait) :
    whenSelected (s.atHeader w) (.next u.countDown) = .next { u with wait := w - 1, evValid := false } := by
  have hrow : whenSelected (s.atHeader w) (.next u.countDown) = .next u.countDown := whenSelected_pos ⟨hst, hw⟩ _
  rw [hrow, State.countDown, hu, hw]
  rfl

/-- Settles O25, row by row: SIZE high byte first, CRC_RX low byte first. -/
theorem headerSizeAndCrcBytes : Obligations.HeaderSizeAndCrcBytes := fun b s hst =>
  ⟨fun hw => header_row (u := { s with size := setHi s.size b }) hst hw rfl,
    fun hw => header_row (u := { s with size := setLo s.size b }) hst hw rfl,
    fun hw => header_row (u := { s with crcRx := setLo s.crcRx b }) hst hw rfl,
    fun hw => header_row (u := { s with crcRx := setHi s.crcRx b }) hst hw rfl⟩

/-- Settles O26, row by row: each byte is loaded and covered. -/
theorem headerTypeAndFormatHighBytes : Obligations.HeaderTypeAndFormatHighBytes := fun b s hst =>
  ⟨fun hw => header_row (u := State.cover b { s with msgType := setHi s.msgType b }) hst hw rfl,
    fun hw => header_row (u := State.cover b { s with msgType := setLo s.msgType b }) hst hw rfl,
    fun hw => header_row (u := State.cover b { s with format := setHi s.format b }) hst hw rfl⟩

theorem verdict_of_eq {c r : Half} (h : c = r) : verdict c r = .frameReady := by
  rw [verdict_eq, if_pos h.symm]

theorem verdict_of_ne {c r : Half} (h : c ≠ r) : verdict c r = .checksumMismatch := by
  rw [verdict_eq, if_neg h.symm]

/-- Settles O27, by the three outcomes of R132, the empty payload by its verdict. -/
theorem headerLastByte : Obligations.HeaderLastByte := by
  intro b s hst hw
  have hrow : exec (.pushHdrFmtLo b) s = .next (State.cover b { s with format := setLo s.format b }).endHeader :=
    whenSelected_pos ⟨hst, hw⟩ _
  rw [hrow]
  refine ⟨fun hover => ?_, fun hempty hc => ?_, fun hempty hc => ?_, fun hpos hle => ?_⟩
  · rw [endHeader_over (by exact BitVec.lt_def.2 hover)]
    rfl
  · rw [endHeader_empty (by exact hempty), complete_eq _ _ [] (by simp [State.payload, hempty])]
    simp [hc, hempty, setLo, hiByte, half]
  · rw [endHeader_empty (by exact hempty), State.complete, verdict_of_ne (by exact hc)]
    rfl
  · have hne : s.size ≠ 0 := fun hz => by simp [hz] at hpos
    have hbound : ¬ s.maxSize < s.size := fun hlt => Nat.not_lt.2 hle (BitVec.lt_def.1 hlt)
    rw [endHeader_payload (by exact hne) (by exact hbound)]
    rfl

/-! ## Payload bytes (R133, R134, R214) -/

theorem length_payload (s : State) (n : Nat) : (s.payload n).length = n := by
  simp [State.payload]

theorem getElem?_payload {s : State} {n k : Nat} (h : k < n) : (s.payload n)[k]? = some (s.pbRead k) := by
  simp [State.payload, h]

/-- Where PUSH.PAY completes, it was selected (R133). -/
theorem selected_of_exec_pushPay {b : Byte} {s t : State} (h : exec (.pushPay b) s = .next t) :
    s.st = .pay ∧ s.payloadOpen = true := by
  rw [exec_pushPay_eq] at h
  by_cases hsel : s.st = .pay ∧ 1 ≤ s.wait.toNat ∧ s.wait.toNat ≤ s.size.toNat
  · exact ⟨hsel.1, (payloadOpen_iff s).2 hsel.2⟩
  · rw [whenSelected_neg hsel] at h
    cases h

/-- The last payload byte is stored in the last cell and covered, and then the frame is complete (R133, R134). -/
theorem exec_pushPay_last {s : State} (hst : s.st = .pay) (hw : s.wait = 1) (hsize : 1 ≤ s.size.toNat)
    (hceil : s.size.toNat ≤ s.cfg.maxSizeCeiling.toNat) (b : Byte) :
    exec (.pushPay b) s
      = .next (((s.pbWrite (s.size.toNat - 1) b).cover b).complete (crc16Update s.crcAcc b)) := by
  have hone : s.wait.toNat = 1 := congrArg BitVec.toNat hw
  have hcell : s.payloadIndex = s.size.toNat - 1 := by rw [payloadIndex_eq (by omega), hone]
  rw [exec_pushPay hst ((payloadOpen_iff s).2 (by omega)), State.pushPayload, if_pos (by omega), hcell,
    endPayload_last (by exact hw)]
  rfl

/-- Settles O29: the verdict decides the event, and the frame's payload is read from the buffer after the store. -/
theorem lastPayloadByte : Obligations.LastPayloadByte := by
  intro b s hst hw hsize hceil
  have hcell : s.size.toNat - 1 < s.cfg.maxSizeCeiling.toNat := by omega
  refine ⟨Memory.store s.pbuf (s.size.toNat - 1) b,
    ((s.pbWrite (s.size.toNat - 1) b).cover b).eventValue (verdict (crc16Update s.crcAcc b) s.crcRx), ?_,
    fun a => lookup_store s.pbuf (s.size.toNat - 1) a b, fun hc => ?_, fun hc => ?_⟩
  · rw [exec_pushPay_last hst hw hsize hceil, State.complete, cover_crcRx, pbWrite_crcRx]
    by_cases hc : crc16Update s.crcAcc b = s.crcRx
    · rw [verdict_of_eq hc, if_pos hc]; rfl
    · rw [verdict_of_ne hc, if_neg hc]; rfl
  · rw [verdict_of_ne hc]; rfl
  · rw [verdict_of_eq hc]
    refine ⟨(s.pbWrite (s.size.toNat - 1) b).payload s.size.toNat, rfl, length_payload _ _, fun k hk => ?_, ?_⟩
    · rw [getElem?_payload (by omega), pbRead_pbWrite b hcell, if_neg (by omega)]
    · rw [getElem?_payload (by omega), pbRead_pbWrite b hcell, if_pos rfl]

/-- The end of a payload byte is the same for every MAX_SIZE (R214). -/
theorem endPayload_withMaxSize (m : Half) (s : State) :
    State.endPayload { s with maxSize := m } = { s.endPayload with maxSize := m } := by
  by_cases hw : s.wait = 1
  · rw [endPayload_last hw, endPayload_last (by exact hw), State.complete, State.complete]
    cases verdict s.crcAcc s.crcRx <;> rfl
  · rw [endPayload_more hw, endPayload_more (by exact hw)]
    rfl

/-- Settles O32: neither the guard nor the store reads MAX_SIZE, and the end of the byte carries it along. -/
theorem payloadIgnoresTheCeiling : Obligations.PayloadIgnoresTheCeiling := by
  intro b m s t h
  obtain ⟨hst, ho⟩ := selected_of_exec_pushPay h
  rw [exec_pushPay hst ho, State.pushPayload] at h
  rw [exec_pushPay (s := { s with maxSize := m }) hst ho, State.pushPayload]
  split at h
  case isTrue hcell =>
    cases h
    rw [if_pos (by exact hcell)]
    exact congrArg Host.Outcome.next (endPayload_withMaxSize m ((s.pbWrite s.payloadIndex b).cover b))
  case isFalse => cases h

/-! ## A frame above the size bound (R132, R140) -/

/-- SizeOutOfBounds at the end of the fixed region: the header is held and Seeking is fresh again (R132, R173). -/
theorem takeEvent_headerLoaded {s : State} (hf : s.FreshSeek) (size crc t f : Half) :
    (s.headerLoaded size crc t f).takeEvent .sizeOutOfBounds = { s with
      size := size, crcRx := crc, msgType := t, format := f, crcAcc := crc16 (coveredBytes t f [])
      evValid := true, evKind := .sizeOutOfBounds
      events := s.events ++ [.frameRejected .sizeOutOfBounds] } := by
  conv_rhs => rw [← enterSeek_of_fresh hf]
  rfl

/-- Settles O40: the fixed region ends in SizeOutOfBounds, and the payload's bytes are pushed from there. -/
theorem oversizedFrameIsRejected : Obligations.OversizedFrameIsRejected := by
  intro i size crc t f data s h hf hl hover
  rw [(encode_exec_of_frameFields h).2, feed_frame hf hl, endHeader_over (by exact hover),
    takeEvent_headerLoaded hf]
  rfl

/-! ## How often noise is reported (R122, R175) -/

/-- Noise of any length, from a fresh Seeking: every byte is counted, and each DesyncNoise takes SCAN_CEILING - 2 off
the count when it restarts it at 3 (R122). -/
theorem noise_account {noise : List Byte} {s u : State} (hf : s.FreshSeek) (hl : s.cfg.Legal)
    (hn : hasSentinel noise = false) (h : feedBytes noise s = .next u) :
    ∃ k : Nat, u.events = s.events ++ List.replicate k (.frameRejected .desyncNoise) ∧
      u.seekCnt.toNat + k * (s.cfg.scanCeiling.toNat - 2) = noise.length ∧
      u.seekCnt.toNat ≤ s.cfg.scanCeiling.toNat ∧ (k ≠ 0 → 3 ≤ u.seekCnt.toNat) := by
  induction noise using List.reverseRecOn generalizing u with
  | nil =>
    obtain ⟨-, -, hcnt, -⟩ := hf
    cases h
    exact ⟨0, (List.append_nil _).symm, by simp [hcnt], by simp [hcnt], fun h0 => absurd rfl h0⟩
  | append_singleton noise b ih =>
    have hprefix := hasSentinel_false_of_infix (List.prefix_append noise [b]).isInfix hn
    obtain ⟨v, -, hfeed, hst, hwin, hcfg, -, -⟩ := feed_noise hf hprefix
    obtain ⟨k, hev, hsum, hle, hthree⟩ := ih hprefix hfeed
    have hpush := push_seek (b := b) hst (by rw [hwin]; exact candidate_windowAfter_ne hn)
    obtain rfl : u = v.pushSeekByte b := Host.Outcome.next.inj (h.symm.trans (feed_snoc hfeed hpush))
    obtain ⟨hlo, hhi⟩ := hl
    rw [List.length_append, List.length_singleton]
    by_cases hover : v.cfg.scanCeiling.toNat < v.seekCnt.toNat + 1
    · rw [pushSeekByte_over hover]
      rw [hcfg] at hover
      refine ⟨k + 1, ?_, ?_, ?_, fun _ => Nat.le_refl 3⟩
      · rw [hev, List.replicate_succ', List.append_assoc]
      · show 3 + (k + 1) * _ = _
        rw [Nat.succ_mul]
        omega
      · show 3 ≤ _
        omega
    · rw [pushSeekByte_within hover]
      rw [hcfg] at hover
      have hsucc : (v.seekCnt + 1).toNat = v.seekCnt.toNat + 1 := BitVec.toNat_add_of_lt (by simp; omega)
      refine ⟨k, hev, ?_, ?_, fun hk => ?_⟩ <;> rw [hsucc]
      · omega
      · omega
      · exact Nat.le_succ_of_le (hthree hk)

/-- The account of `noise_account` fixes the number of reports: none up to the ceiling `c`, one at `c + 1`, and
one more every `c - 2` bytes (R122 corner case (b)). -/
theorem reports_of_account {c cnt k n : Nat} (hc : 4 ≤ c) (hsum : cnt + k * (c - 2) = n) (hle : cnt ≤ c)
    (hthree : k ≠ 0 → 3 ≤ cnt) : k = if n ≤ c then 0 else 1 + (n - c - 1) / (c - 2) := by
  cases k with
  | zero => rw [if_pos (by omega)]
  | succ k =>
    have hcnt := hthree k.succ_ne_zero
    rw [Nat.succ_mul] at hsum
    have hpast : n - c - 1 = (cnt - 3) + k * (c - 2) := by omega
    rw [if_neg (by omega), hpast, Nat.add_mul_div_right _ _ (by omega), Nat.div_eq_of_lt (by omega)]
    omega

/-- Settles O49: the run over the noise keeps the account, and the account fixes the number of reports. -/
theorem desyncNoiseRecurs : Obligations.DesyncNoiseRecurs := by
  intro noise s hf hl hn
  obtain ⟨u, -, hfeed, hst, -, -, -, -⟩ := feed_noise hf hn
  obtain ⟨k, hev, hsum, hle, hthree⟩ := noise_account hf hl hn hfeed
  exact ⟨u, hfeed, hst, by rw [hev, reports_of_account hl.1 hsum hle hthree]⟩

/-! ## How long a cell and a holding register last (R211, R212) -/

/-- The index in a frame that the next byte can have at most: in Seeking no more bytes can belong to one than have been
counted, and the twelve bytes of the fixed region stand before the payload (R24, R70, R124). -/
def State.wireIndex (s : State) : Nat :=
  match s.st with
  | .seek => s.seekCnt.toNat
  | .hdr => 12 - s.wait.toNat
  | .pay => 12 + s.payloadIndex

theorem wireIndex_seek {s : State} (h : s.st = .seek) : s.wireIndex = s.seekCnt.toNat := by
  simp only [State.wireIndex, h]

theorem wireIndex_hdr {s : State} (h : s.st = .hdr) : s.wireIndex = 12 - s.wait.toNat := by
  simp only [State.wireIndex, h]

theorem wireIndex_pay {s : State} (h : s.st = .pay) : s.wireIndex = 12 + s.payloadIndex := by
  simp only [State.wireIndex, h]

theorem wireIndex_of_fresh {s : State} (h : s.FreshSeek) : s.wireIndex = 0 := by
  obtain ⟨hst, -, hcnt, -⟩ := h
  rw [wireIndex_seek hst, hcnt]
  rfl

theorem wireIndex_complete (c : Half) (s : State) : (s.complete c).wireIndex = 0 :=
  wireIndex_of_fresh (takeEvent_fresh _ s (verdict_ne_desync c s.crcRx))

/-- A byte in Seeking: the sentinel is complete only after three counted bytes, and the count restarts at 3 only past a
ceiling of at least 4 (R6, R22, R122, R123). -/
theorem wireIndex_push_seek {b : Byte} {s t : State} (hi : Inv s) (hst : s.st = .seek) (h : s.push b = .next t) :
    t.wireIndex ≤ s.wireIndex + 1 := by
  obtain ⟨-, -, hfill, -, -⟩ := hi.seek_parked hst
  have hceil := hi.cfg_legal.1
  rw [wireIndex_seek hst]
  by_cases hc : candidate s.win b = sentinel
  · rw [push_seek_match hst hc] at h
    cases h
    have hwin : s.win.toNat = 0xAA55AA := congrArg BitVec.toNat ((candidate_eq_sentinel _ _).1 hc).1
    show 4 ≤ _
    omega
  · rw [push_seek hst hc] at h
    cases h
    rw [wireIndex_seek ((pushSeekByte_st b s).trans hst)]
    by_cases hover : s.cfg.scanCeiling.toNat < s.seekCnt.toNat + 1
    · rw [pushSeekByte_over hover]
      show 3 ≤ _
      omega
    · rw [pushSeekByte_within hover]
      show (s.seekCnt + 1).toNat ≤ _
      rw [BitVec.toNat_add]
      exact Nat.mod_le _ _

/-- The last header byte ends the frame or begins the payload, whose first byte has index 12 (R132). -/
theorem wireIndex_endHeader_le (s : State) : s.endHeader.wireIndex ≤ 12 := by
  by_cases hover : s.maxSize < s.size
  · rw [endHeader_over hover, wireIndex_of_fresh (takeEvent_fresh _ s (by simp))]
    omega
  · by_cases hempty : s.size = 0
    · rw [endHeader_empty hempty, wireIndex_complete]
      omega
    · rw [endHeader_payload hempty hover]
      show 12 + (s.size - s.size).toNat ≤ 12
      rw [BitVec.sub_self]
      exact Nat.le_refl 12

/-- A header byte: WAIT counts down to the last one (R124 to R132). -/
theorem wireIndex_push_hdr {b : Byte} {s t : State} (hi : Inv s) (hst : s.st = .hdr) (h : s.push b = .next t) :
    t.wireIndex ≤ s.wireIndex + 1 := by
  obtain ⟨hpos, hle, -, -⟩ := hi.hdr_open hst
  rw [wireIndex_hdr hst]
  by_cases hw : s.wait = 1
  · rw [push_hdr1 hst hw] at h
    cases h
    rw [hw]
    exact wireIndex_endHeader_le _
  · have hmore : s.wait.toNat ≠ 1 := fun hone => hw (BitVec.eq_of_toNat_eq hone)
    obtain ⟨hst', hwait'⟩ := push_header_countDown h hst (by omega)
    rw [wireIndex_hdr hst', hwait', toNat_sub_one hpos]
    omega

/-- A payload byte: WAIT counts down, and the last one ends the frame (R133). -/
theorem wireIndex_push_pay {b : Byte} {s t : State} (hi : Inv s) (hst : s.st = .pay) (h : s.push b = .next t) :
    t.wireIndex ≤ s.wireIndex + 1 := by
  obtain ⟨hpos, hle, -, -, -⟩ := hi.pay_open hst
  rw [eq_endPayload_of_push h hst]
  by_cases hw : s.wait = 1
  · rw [endPayload_last (by exact hw), wireIndex_complete]
    omega
  · have hwait : (s.wait - 1).toNat = s.wait.toNat - 1 := toNat_sub_one hpos
    have hnext : (s.countDown).payloadIndex = s.size.toNat - (s.wait.toNat - 1) := by
      rw [payloadIndex_eq (by rw [countDown_wait, countDown_size]; omega), countDown_wait, countDown_size, hwait]
    rw [endPayload_more (by exact hw), wireIndex_pay hst, wireIndex_pay (by exact hst), payloadIndex_eq hle]
    show 12 + s.countDown.payloadIndex ≤ _
    omega

/-- One byte moves the index on by at most one (R124, R133). -/
theorem wireIndex_push {b : Byte} {s t : State} (hi : Inv s) (h : s.push b = .next t) :
    t.wireIndex ≤ s.wireIndex + 1 := by
  cases hst : s.st with
  | seek => exact wireIndex_push_seek hi hst h
  | hdr => exact wireIndex_push_hdr hi hst h
  | pay => exact wireIndex_push_pay hi hst h

/-- What no byte before index `d` changes, FEED of bytes that all stand before index `d` leaves as it was. -/
theorem feed_keeps {α : Type} {f : State → α} {d : Nat}
    (hkeep : ∀ {b : Byte} {s t : State}, s.push b = .next t → s.wireIndex < d → f t = f s)
    {bytes : List Byte} {s t : State} (hi : Inv s) (hd : s.wireIndex + bytes.length ≤ d)
    (h : feedBytes bytes s = .next t) : f t = f s := by
  induction bytes generalizing s with
  | nil => cases h; rfl
  | cons b bytes ih =>
    obtain ⟨u, hpush, hfeed⟩ := andThen_next.1 h
    rw [List.length_cons] at hd
    have hnext := wireIndex_push hi hpush
    rw [ih (push_inv hi hpush) (by omega) hfeed, hkeep hpush (by omega)]

/-- A byte before the one that payload cell `k` waits for leaves the cell (R133). -/
theorem pbRead_of_push_before {k : Nat} {b : Byte} {s t : State} (h : s.push b = .next t)
    (hk : s.wireIndex < 12 + k) : t.pbRead k = s.pbRead k := by
  obtain ⟨-, -, -, -, -, hread⟩ := push_frame h
  rw [hread k, if_neg]
  rintro ⟨hst, rfl⟩
  rw [wireIndex_pay hst] at hk
  omega

/-- Settles O51: cell `k` is written at index 12 + k, which as many bytes do not pass. -/
theorem payloadCellLifetime : Obligations.PayloadCellLifetime := by
  intro bytes k s t hi hf hlen h
  exact feed_keeps (f := fun u => u.pbRead k) pbRead_of_push_before hi
    (by rw [wireIndex_of_fresh hf]; omega) h

/-- The holding registers of the header fields are the same (R25 to R28). -/
def SameHeader (s t : State) : Prop :=
  t.size = s.size ∧ t.crcRx = s.crcRx ∧ t.msgType = s.msgType ∧ t.format = s.format

theorem sameHeader_pushSeekByte (b : Byte) (s : State) : SameHeader s (s.pushSeekByte b) := by
  unfold State.pushSeekByte
  split <;> exact ⟨rfl, rfl, rfl, rfl⟩

theorem sameHeader_takeEvent (k : EventKind) (s : State) : SameHeader s (s.takeEvent k) :=
  ⟨takeEvent_size k s, takeEvent_crcRx k s, takeEvent_msgType k s, takeEvent_format k s⟩

theorem sameHeader_endHeader (s : State) : SameHeader s s.endHeader := by
  unfold State.endHeader
  split
  · exact sameHeader_takeEvent _ s
  · split
    · exact sameHeader_takeEvent _ s
    · exact ⟨rfl, rfl, rfl, rfl⟩

theorem sameHeader_endPayload (s : State) : SameHeader s s.endPayload := by
  unfold State.endPayload
  split
  · exact sameHeader_takeEvent _ s
  · exact ⟨rfl, rfl, rfl, rfl⟩

/-- A holding register is loaded at the indices of its own two bytes, and nowhere else (R125 to R132). -/
theorem header_of_push_before {b : Byte} {s t : State} (h : s.push b = .next t) :
    (s.wireIndex < 4 → t.size = s.size) ∧ (s.wireIndex < 6 → t.crcRx = s.crcRx) ∧
    (s.wireIndex < 8 → t.msgType = s.msgType) ∧ (s.wireIndex < 10 → t.format = s.format) := by
  rcases push_cases h with ⟨hst, hc, rfl⟩ | ⟨hst, hc, rfl⟩ | ⟨hst, hw, rfl⟩ | ⟨hst, hw, rfl⟩ | ⟨hst, hw, rfl⟩ |
    ⟨hst, hw, rfl⟩ | ⟨hst, hw, rfl⟩ | ⟨hst, hw, rfl⟩ | ⟨hst, hw, rfl⟩ | ⟨hst, hw, rfl⟩ | ⟨hst, ho, hx, rfl⟩
  · exact ⟨fun _ => rfl, fun _ => rfl, fun _ => rfl, fun _ => rfl⟩
  · obtain ⟨hsize, hcrc, htype, hfmt⟩ := sameHeader_pushSeekByte b s
    exact ⟨fun _ => hsize, fun _ => hcrc, fun _ => htype, fun _ => hfmt⟩
  · rw [wireIndex_hdr hst, hw]
    exact ⟨(absurd · (by decide)), fun _ => rfl, fun _ => rfl, fun _ => rfl⟩
  · rw [wireIndex_hdr hst, hw]
    exact ⟨(absurd · (by decide)), fun _ => rfl, fun _ => rfl, fun _ => rfl⟩
  · rw [wireIndex_hdr hst, hw]
    exact ⟨(absurd · (by decide)), (absurd · (by decide)), fun _ => rfl, fun _ => rfl⟩
  · rw [wireIndex_hdr hst, hw]
    exact ⟨(absurd · (by decide)), (absurd · (by decide)), fun _ => rfl, fun _ => rfl⟩
  · rw [wireIndex_hdr hst, hw]
    exact ⟨(absurd · (by decide)), (absurd · (by decide)), (absurd · (by decide)), fun _ => rfl⟩
  · rw [wireIndex_hdr hst, hw]
    exact ⟨(absurd · (by decide)), (absurd · (by decide)), (absurd · (by decide)), fun _ => rfl⟩
  · rw [wireIndex_hdr hst, hw]
    exact ⟨(absurd · (by decide)), (absurd · (by decide)), (absurd · (by decide)), (absurd · (by decide))⟩
  · rw [wireIndex_hdr hst, hw]
    obtain ⟨hsize, hcrc, htype, -⟩ := sameHeader_endHeader (State.cover b { s with format := setLo s.format b })
    exact ⟨fun _ => hsize, fun _ => hcrc, fun _ => htype, (absurd · (by decide))⟩
  · obtain ⟨hsize, hcrc, htype, hfmt⟩ := sameHeader_endPayload ((s.pbWrite s.payloadIndex b).cover b)
    exact ⟨fun _ => hsize, fun _ => hcrc, fun _ => htype, fun _ => hfmt⟩

/-- Settles O52: each register is loaded at the indices 4, 6, 8 and 10 and after, which as many bytes do not pass. -/
theorem headerFieldLifetime : Obligations.HeaderFieldLifetime := by
  intro bytes s t hi hf h
  have h0 := wireIndex_of_fresh hf
  refine ⟨fun hlen => ?_, fun hlen => ?_, fun hlen => ?_, fun hlen => ?_⟩
  · exact feed_keeps (fun hpush => by obtain ⟨hreg, -, -, -⟩ := header_of_push_before hpush; exact hreg) hi (by omega) h
  · exact feed_keeps (fun hpush => by obtain ⟨-, hreg, -, -⟩ := header_of_push_before hpush; exact hreg) hi (by omega) h
  · exact feed_keeps (fun hpush => by obtain ⟨-, -, hreg, -⟩ := header_of_push_before hpush; exact hreg) hi (by omega) h
  · exact feed_keeps (fun hpush => by obtain ⟨-, -, -, hreg⟩ := header_of_push_before hpush; exact hreg) hi (by omega) h

end Sys2Proof.Machine

/-! # The control operations (spec/42_control_ops.md R151 to R155)

A CSR write is one record update, whatever its address. A PUSH neither reads what is written beside it nor writes
MAX_SIZE, so the two effects of a shared cycle compose. Every read row is the decoder's row of its address. -/

namespace Sys2Proof.Machine

/-! ## NOP and WRCSR (R151, R153) -/

/-- Settles O20: NOP is `State.quiet`. -/
theorem nopOnlyEndsTheStrobe : Obligations.NopOnlyEndsTheStrobe := fun _ => rfl

/-- The register part of WRCSR as one update, with the clamp as a number (R37, R153). -/
theorem writeCsr_eq (a : CsrAddr) (v : Half) (s : State) :
    s.writeCsr a v = { s with
      maxSize := if a = 0 then BitVec.ofNat 16 (min v.toNat s.cfg.maxSizeCeiling.toNat) else s.maxSize } := by
  by_cases ha : a = 0
  · rw [State.writeCsr, if_pos ha, if_pos ha, bv_min]
  · rw [State.writeCsr, if_neg ha, if_neg ha]

/-- WRCSR alone in its cycle also ends the strobe (R153). -/
theorem wrcsr_eq (a : CsrAddr) (v : Half) (s : State) :
    s.wrcsr a v = { s with
      maxSize := if a = 0 then BitVec.ofNat 16 (min v.toNat s.cfg.maxSizeCeiling.toNat) else s.maxSize
      evValid := false } := by
  rw [State.wrcsr, writeCsr_eq]
  rfl

/-- Settles O21, by the two branches of the address. -/
theorem wrcsrClampsOrIsIgnored : Obligations.WrcsrClampsOrIsIgnored := by
  refine ⟨fun v s => congrArg Host.Outcome.next (wrcsr_eq 0 v s), fun a v s ha => ?_⟩
  have hrow : exec (.wrcsrIgnored a v) s = .next (s.wrcsr a v) := rfl
  rw [hrow, wrcsr_eq, if_neg ha]

/-! ## PUSH together with WRCSR (R154) -/

/-- The CSR write lands on what the pushed byte leaves. -/
theorem exec_pushWrcsr_of_push {b : Byte} {s t : State} (h : s.push b = .next t) (a : CsrAddr) (v : Half) :
    exec (.pushWrcsr a v b) s = .next (t.writeCsr a v) :=
  andThen_next.2 ⟨t, h, rfl⟩

/-- Settles O22: the byte is taken and keeps MAX_SIZE and the ceiling, so the write depends on the old state alone. -/
theorem pushWithWrcsrReadsTheOldCeiling : Obligations.PushWithWrcsrReadsTheOldCeiling := by
  intro a v b s hinv
  obtain ⟨i, hdecode⟩ := decodePush_total hinv b
  obtain ⟨t, hpush⟩ := push_total (b := b) hinv
  obtain ⟨hcfg, -, -, hmax, -, -⟩ := push_frame hpush
  refine ⟨i, t, hdecode, (exec_decodePush hdecode).2 hpush, hmax, ?_⟩
  rw [exec_pushWrcsr_of_push hpush, writeCsr_eq, hcfg, hmax]

/-! ## RDCSR (R35 to R37, R155) -/

/-- STATUS as a number: its three fields at their weights (R36). -/
theorem statusWord_eq_ofNat (p : Phase) (v : Bool) (k : EventKind) :
    statusWord p v k = BitVec.ofNat 16 (p.code.toNat + 4 * v.toNat + 8 * k.code.toNat) := by
  apply BitVec.eq_of_toNat_eq
  have hp := p.code.isLt
  have hk := k.code.isLt
  have hv := v.toNat_le
  simp only [statusWord, bit1, append_toNat, BitVec.ofNat_eq_ofNat, BitVec.toNat_ofBool, BitVec.toNat_ofNat]
  omega

theorem winLo_eq_ofNat (w : Window) : winLo w = BitVec.ofNat 16 (w.toNat % 65536) := by
  apply BitVec.eq_of_toNat_eq
  simp [winLo]

theorem winHi_eq_ofNat (w : Window) : winHi w = BitVec.ofNat 16 (w.toNat / 65536) := by
  apply BitVec.eq_of_toNat_eq
  have hw := w.isLt
  simp only [winHi, half_toNat, BitVec.extractLsb'_toNat, Nat.shiftRight_eq_div_pow, BitVec.ofNat_eq_ofNat,
    BitVec.toNat_ofNat]
  omega

/-- The read row of an address, by the value that the map gives for it (R35, R155). -/
theorem exec_decodeCsrRead_of_csr {a : CsrAddr} {s : State} {v : Half} (h : s.csr a = v) :
    exec (decodeCsrRead a) s = .next { s with out := { s.out with csrRdata := v } } := by
  rw [exec_decodeCsrRead, h]
  rfl

/-- A reserved address reads as zero (R37). -/
theorem csr_reserved {a : CsrAddr} (h : 0xB ≤ a.toNat) (s : State) : s.csr a = 0 := by
  unfold State.csr
  split
  case h_12 => rfl
  all_goals omega

/-- The generic row RDCSR does what the row of its address does (R155; assumption log 12). -/
theorem exec_rdcsr_eq_decodeCsrRead (a : CsrAddr) (s : State) : exec (.rdcsr a) s = exec (decodeCsrRead a) s :=
  (exec_decodeCsrRead a s).symm

/-- Settles O33, address by address: each row is the decoder's row of its address, which shows the map's value. -/
theorem csrReadsShowTheMap : Obligations.CsrReadsShowTheMap := by
  intro s
  refine ⟨exec_decodeCsrRead_of_csr (a := 0x0) rfl,
    exec_decodeCsrRead_of_csr (a := 0x1) (statusWord_eq_ofNat s.st s.evValid s.evKind),
    exec_decodeCsrRead_of_csr (a := 0x2) rfl, exec_decodeCsrRead_of_csr (a := 0x3) rfl,
    exec_decodeCsrRead_of_csr (a := 0x4) rfl, exec_decodeCsrRead_of_csr (a := 0x5) rfl,
    exec_decodeCsrRead_of_csr (a := 0x6) rfl, exec_decodeCsrRead_of_csr (a := 0x7) rfl,
    exec_decodeCsrRead_of_csr (a := 0x8) rfl, exec_decodeCsrRead_of_csr (a := 0x9) (winLo_eq_ofNat s.win),
    exec_decodeCsrRead_of_csr (a := 0xA) (winHi_eq_ofNat s.win), fun a ha => ?_, fun a => ?_⟩
  · rw [← decodeCsrRead_reserved a ha]
    exact exec_decodeCsrRead_of_csr (csr_reserved ha s)
  · exact ⟨s.csr a, rfl, exec_rdcsr_eq_decodeCsrRead a s⟩

end Sys2Proof.Machine

/-! # What raises an event, and how long the next one takes (spec/60_exceptions.md R170, R178, R180)

Only the cycle of a byte can raise. Between two events the index of the next byte (`State.wireIndex`) has to reach
the scan ceiling, where DesyncNoise is raised, or 11, the last byte of the fixed region; an event leaves it at 3 at
most, and each byte moves it on by at most one. -/

namespace Sys2Proof.Machine

/-- Settles O13: the contrapositive of `evValid_of_step_without_push`. -/
theorem onlyPushRaises : Obligations.OnlyPushRaises := by
  intro s t h hev
  have hpush : ¬ (s.nextInput.rst = true ∨ s.nextInput.inValid = false) := fun hn => by
    simp [evValid_of_step_without_push h hn] at hev
  simpa [and_comm] using hpush

/-- Outside Seeking no event is being reported (R179). -/
theorem evValid_of_not_seek {s : State} (hi : Inv s) (hst : s.st ≠ .seek) : s.evValid = false := by
  refine Bool.eq_false_iff.2 fun hev => ?_
  obtain ⟨hseek, -, -⟩ := hi.event_cycle hev
  exact hst hseek

/-- A byte whose index is below the scan ceiling and below the last of the fixed region raises nothing (R122 to R131). -/
theorem evValid_of_push_before {b : Byte} {s t : State} (hi : Inv s) (h : s.push b = .next t)
    (hidx : s.wireIndex < min s.cfg.scanCeiling.toNat 11) : t.evValid = false := by
  cases hst : s.st with
  | seek =>
    rw [wireIndex_seek hst] at hidx
    exact push_seek_quiet h hst (by omega)
  | hdr =>
    rw [wireIndex_hdr hst] at hidx
    obtain ⟨hst', -⟩ := push_header_countDown h hst (by omega)
    exact evValid_of_not_seek (push_inv hi h) (by simp [hst'])
  | pay =>
    rw [wireIndex_pay hst] at hidx
    omega

/-- FEED of bytes that all stand before the scan ceiling and the last index of the fixed region reports nothing. -/
theorem events_of_feed_before {bytes : List Byte} {s t : State} (hi : Inv s)
    (hlen : s.wireIndex + bytes.length ≤ min s.cfg.scanCeiling.toNat 11) (h : feedBytes bytes s = .next t) :
    t.events = s.events := by
  induction bytes generalizing s with
  | nil => cases h; rfl
  | cons b bytes ih =>
    obtain ⟨u, hpush, hfeed⟩ := andThen_next.1 h
    rw [List.length_cons] at hlen
    have hquiet := evValid_of_push_before hi hpush (by omega)
    have hnext := wireIndex_push hi hpush
    obtain ⟨hcfg, -, -, -, ⟨-, hev⟩ | ⟨hraised, -⟩, -⟩ := push_frame hpush
    · rw [ih (push_inv hi hpush) (by rw [hcfg]; omega) hfeed, hev]
    · rw [hquiet] at hraised
      cases hraised

/-- An event leaves the index at 3 after DesyncNoise and at 0 after every other (R179). -/
theorem wireIndex_le_of_event {s : State} (hi : Inv s) (he : s.evValid = true) : s.wireIndex ≤ 3 := by
  obtain ⟨hst, hfresh, hdesync⟩ := hi.event_cycle he
  rw [wireIndex_seek hst]
  by_cases hk : s.evKind = .desyncNoise
  · rw [hdesync hk]; decide
  · rw [(hfresh hk).2]; decide

/-- Settles O53: from an index of 3 at most, fewer than `min (SCAN_CEILING - 2) 9` bytes all stand before the scan
ceiling and index 11. -/
theorem minimumPushesBetweenEvents : Obligations.MinimumPushesBetweenEvents := by
  intro bytes s t hi he hlen h
  have hidx := wireIndex_le_of_event hi he
  exact events_of_feed_before hi (by omega) h

end Sys2Proof.Machine
